-- ==== Sys2Proof/Config.lean ====
section
/-! DEFINITION. The parameters of the block (00_scope.md rule R5): fixed when a unit is reset, never changed while it runs.
They are supplied with reset and land in the configuration registers CFG.* of the unit (10_state.md rule R38); a
statement about a unit quantifies over those registers, so over every parameter value. The spec leaves no value free that a
rule reads, so there is no opaque constant here (notes/assumptions/12.md says why S.pend_buf needs none). -/

namespace Sys2Proof

/-- The parameters of 00_scope.md rule R5, as the host supplies them with reset. -/
structure Params where
  /-- `MAX_PAYLOAD`: the largest payload of one frame, in bytes. -/
  maxPayload : Nat
  /-- `SEQ_MOD`: the modulus of the sequence counters. -/
  seqMod : Nat
  /-- `START_SEQ`: the starting sequence number of both units. -/
  startSeq : Nat
  /-- `MAX_RETRY`: the maximum retry count of unit SND. -/
  maxRetry : Nat
  /-- `IDLE_LIMIT`: the receiver's idle policy, 0 for "keep waiting". -/
  idleLimit : Nat
deriving DecidableEq, Repr

/-- The parameters `State.reset` is given: the defaults of R5, and for `MAX_RETRY`, to which the spec gives no value, the 3
of its programs P1 and P4 (DESIGN CHOICE, unsafe, notes/assumptions/10.md). -/
def Params.standard : Params :=
  { maxPayload := 1020, seqMod := 256, startSeq := 0, maxRetry := 3, idleLimit := 0 }

/-- `CSUM_MOD` of R5: fixed, not configurable. -/
abbrev csumMod : Nat := 255

/-- `HDR_LEN` of R5: bytes of frame header before the payload; also `MIN_FRAME`. -/
abbrev hdrLen : Nat := 4

end Sys2Proof
end

