-- ==== Sys2Proof/Word.lean ====
section
/-! DEFINITION. The byte and the byte string of 00_scope.md rule R9: the only quantities that cross a port of this
hardware. Everything else the spec counts is a natural number or a register of a named width. -/

namespace Sys2Proof

/-- A byte: an unsigned integer 0 to 255 (R9). -/
abbrev Byte := BitVec 8

/-- A byte string with a known length: a chunk, a datagram, a payload, the operand of an operation (R9, R43(b)). -/
abbrev Bytes := List Byte

/-- The byte `n mod 256`. -/
abbrev toByte (n : Nat) : Byte := BitVec.ofNat 8 n

end Sys2Proof
end

