-- ==== Sys2Proof/Syntax.lean ====
section
/-! DEFINITION. The instructions: one constructor per row of spec/opcode_table.json. Thirteen rows are the operations of
30_encoding.md rule R95; two rows, FRAME (R90) and ACK (R94), are the wire formats, and stand here for the arrival of a
datagram in that format at the end that receives it (60_exceptions.md rules R236, R237; notes/assumptions/5.md). -/

namespace Sys2Proof

/-- The two instances of the block on the two ends of the channel (10_state.md R20, 60_exceptions.md R242). -/
inductive Side where
  /-- The sender instance: unit SND, an encoder, a checksum generator. -/
  | sender
  /-- The receiver instance: unit RCV, a decoder, a checksum generator. -/
  | receiver
deriving DecidableEq, Repr

/-- One operation with its operand, or one datagram in a wire format. -/
inductive Instr where
  /-- `CK.CLR` at the checksum generator of instance `u` (R123). -/
  | ckClr (u : Side)
  /-- `CK.ADD b` at the checksum generator of instance `u` (R124). -/
  | ckAdd (u : Side) (b : Byte)
  /-- `ENC s, p` (R141). -/
  | enc (s : Byte) (p : Bytes)
  /-- `DEC d` (R143). -/
  | dec (d : Bytes)
  /-- `S.LOAD c` (R162). -/
  | sLoad (c : Bytes)
  /-- `S.ACK d` (R163). -/
  | sAck (d : Bytes)
  /-- `S.TIMEOUT` (R166). -/
  | sTimeout
  /-- `S.CLOSED` (R167). -/
  | sClosed
  /-- `S.CANCEL` (R168). -/
  | sCancel
  /-- `R.FRAME d` (R192). -/
  | rFrame (d : Bytes)
  /-- `R.TIMEOUT` (R198). -/
  | rTimeout
  /-- `R.CLOSED` (R199). -/
  | rClosed
  /-- `R.STOP` (R200). -/
  | rStop
  /-- A datagram in format FRAME (R90) reaches the receiver: checksum byte, sequence byte, payload. The 16-bit length field is the payload's length. -/
  | frame (checksum : Byte) (sequence : Byte) (payload : Bytes)
  /-- A datagram in format ACK (R94) reaches the sender. -/
  | ack (sequence : Byte)
deriving DecidableEq, Repr

/-- The instance that holds the unit an instruction is for (R20, R95: the high nibble selects the unit). -/
def Instr.side : Instr → Side
  | .ckClr u => u
  | .ckAdd u _ => u
  | .enc _ _ => .sender
  | .dec _ => .receiver
  | .sLoad _ => .sender
  | .sAck _ => .sender
  | .sTimeout => .sender
  | .sClosed => .sender
  | .sCancel => .sender
  | .rFrame _ => .receiver
  | .rTimeout => .receiver
  | .rClosed => .receiver
  | .rStop => .receiver
  | .frame _ _ _ => .receiver
  | .ack _ => .sender

end Sys2Proof
end

