-- ==== Sys2Proof/WellFormed.lean ====
section
/-! DEFINITION. Which terms of `Instr` some byte string stands for. The one check: the length field of format FRAME is 16
bits wide (30_encoding.md rules R90, R92), so a payload of 65536 bytes or more has no encoding. Operands of the thirteen
operations have any length their form allows (R96), and the constructors hold no other. -/

namespace Sys2Proof

/-- The instruction has an encoding. -/
def Instr.wellFormed : Instr → Bool
  | .ckClr _ => true
  | .ckAdd _ _ => true
  | .enc _ _ => true
  | .dec _ => true
  | .sLoad _ => true
  | .sAck _ => true
  | .sTimeout => true
  | .sClosed => true
  | .sCancel => true
  | .rFrame _ => true
  | .rTimeout => true
  | .rClosed => true
  | .rStop => true
  | .frame _ _ p => decide (p.length < 65536)
  | .ack _ => true

end Sys2Proof
end

