-- ==== Sys2Proof/Decode.lean ====
section
/-! DEFINITION. From bytes at a port to an instruction, and back. An operation presented to an operation port is one
operation byte followed by the operand bytes (30_encoding.md rules R95, R96, R100). A datagram that the Transport hands over
at one end is read by the wire format of that end: FRAME at the receiver (R90, R92), ACK at the sender (R94); a datagram that
is not in the format is still presented, as the operation R.FRAME or S.ACK of its bytes (60_exceptions.md R236, R237). -/

namespace Sys2Proof

/-- Where bytes arrive: the operation ports of an instance, or the result of its Transport's `receive`. -/
inductive Port where
  | op (u : Side)
  | link (u : Side)
deriving DecidableEq, Repr

def Port.side : Port → Side
  | .op u => u
  | .link u => u

/-- The thirteen operation codes of R95. -/
inductive Op where
  | ckClr | ckAdd | enc | dec
  | sLoad | sAck | sTimeout | sClosed | sCancel
  | rFrame | rTimeout | rClosed | rStop
deriving DecidableEq, Repr

/-- The operation byte (R95); all eight bits are significant. -/
def Op.code : Op → Byte
  | .ckClr => 0x00
  | .ckAdd => 0x01
  | .enc => 0x10
  | .dec => 0x11
  | .sLoad => 0x20
  | .sAck => 0x21
  | .sTimeout => 0x22
  | .sClosed => 0x23
  | .sCancel => 0x24
  | .rFrame => 0x30
  | .rTimeout => 0x31
  | .rClosed => 0x32
  | .rStop => 0x33

/-- The rows of the table of R95, in its order. -/
def Op.all : List Op :=
  [.ckClr, .ckAdd, .enc, .dec, .sLoad, .sAck, .sTimeout, .sClosed, .sCancel, .rFrame, .rTimeout, .rClosed, .rStop]

/-- The operation a code stands for; none for the 243 reserved codes (R97). -/
def Op.ofCode (b : Byte) : Option Op := Op.all.find? (fun o => o.code == b)

/-- The operand forms of R96. -/
inductive Form where
  | none | byte | bytes | seqBytes
deriving DecidableEq, Repr

def Op.form : Op → Form
  | .ckClr => .none
  | .ckAdd => .byte
  | .enc => .seqBytes
  | .dec => .bytes
  | .sLoad => .bytes
  | .sAck => .bytes
  | .sTimeout => .none
  | .sClosed => .none
  | .sCancel => .none
  | .rFrame => .bytes
  | .rTimeout => .none
  | .rClosed => .none
  | .rStop => .none

/-- `alen` fits the operand form (R96). -/
def Form.fits : Form → Nat → Bool
  | .none, n => n == 0
  | .byte, n => n == 1
  | .bytes, _ => true
  | .seqBytes, n => 1 ≤ n

/-- The shortest operand of a form. -/
def Form.least : Form → Nat
  | .none => 0
  | .byte => 1
  | .bytes => 0
  | .seqBytes => 1

/-- Which instance holds the unit of an operation (R20): a checksum generator stands in both. -/
def Op.home : Op → Option Side
  | .ckClr => Option.none
  | .ckAdd => Option.none
  | .enc => some .sender
  | .dec => some .receiver
  | .sLoad => some .sender
  | .sAck => some .sender
  | .sTimeout => some .sender
  | .sClosed => some .sender
  | .sCancel => some .sender
  | .rFrame => some .receiver
  | .rTimeout => some .receiver
  | .rClosed => some .receiver
  | .rStop => some .receiver

/-- The operation's unit stands in instance `u`. -/
def Op.standsIn (o : Op) (u : Side) : Bool :=
  match o.home with
  | Option.none => true
  | some v => v == u

/-- Why bytes at an operation port are no operation. Each is "not enabled" in the spec's words (R97, R226). -/
inductive DecodeError where
  /-- Nothing was presented: not even an operation byte. -/
  | noOpcode
  /-- A reserved operation code (R97). -/
  | reservedCode (op : Byte)
  /-- The operand's length does not fit the operand form of the code (R96, R97). -/
  | operandForm (op : Byte)
  /-- The unit of this operation does not stand in this instance (R20). -/
  | noSuchUnit (op : Byte)
deriving DecidableEq, Repr

/-- What a decoder answers. -/
inductive Decoded where
  | instr (i : Instr)
  | rejected (e : DecodeError)
deriving DecidableEq, Repr

/-- The instruction of an operation at instance `u` with operand `arg`; none when the operand does not fit the form. -/
def Op.build (o : Op) (u : Side) (arg : Bytes) : Option Instr :=
  match o, arg with
  | .ckClr, [] => some (.ckClr u)
  | .ckAdd, [b] => some (.ckAdd u b)
  | .enc, s :: p => some (.enc s p)
  | .dec, d => some (.dec d)
  | .sLoad, c => some (.sLoad c)
  | .sAck, d => some (.sAck d)
  | .sTimeout, [] => some .sTimeout
  | .sClosed, [] => some .sClosed
  | .sCancel, [] => some .sCancel
  | .rFrame, d => some (.rFrame d)
  | .rTimeout, [] => some .rTimeout
  | .rClosed, [] => some .rClosed
  | .rStop, [] => some .rStop
  | _, _ => Option.none

/-- Bytes at the operation port of instance `u` (R95 to R97). -/
def decodeOp (u : Side) : Bytes → Decoded
  | [] => .rejected .noOpcode
  | b :: arg =>
    match Op.ofCode b with
    | Option.none => .rejected (.reservedCode b)
    | some o =>
      if o.standsIn u then
        match o.build u arg with
        | some i => .instr i
        | Option.none => .rejected (.operandForm b)
      else .rejected (.noSuchUnit b)

/-- The 16-bit length of two header bytes, most significant first (R61, R92). -/
def lengthOf (hi lo : Byte) : Nat := 256 * hi.toNat + lo.toNat

/-- Bits 15:8 of a payload length (R92). -/
def lengthHi (n : Nat) : Byte := toByte (n / 256)

/-- Bits 7:0 of a payload length (R92). -/
def lengthLo (n : Nat) : Byte := toByte (n % 256)

/-- A datagram at the receiver's end: format FRAME if its length agrees with its header (R90, R93), else R.FRAME of its bytes (R237). -/
def decodeFrameLink (d : Bytes) : Instr :=
  match d with
  | c :: s :: hi :: lo :: p => if p.length = lengthOf hi lo then .frame c s p else .rFrame d
  | _ => .rFrame d

/-- A datagram at the sender's end: format ACK if it is one byte (R94), else S.ACK of its bytes (R236). -/
def decodeAckLink (d : Bytes) : Instr :=
  match d with
  | [s] => .ack s
  | _ => .sAck d

/-- The decoder: total on any bytes at any port. -/
def decode : Port → Bytes → Decoded
  | .op u, bs => decodeOp u bs
  | .link .receiver, d => .instr (decodeFrameLink d)
  | .link .sender, d => .instr (decodeAckLink d)

/-- The port and the bytes that stand for an instruction (R90, R94, R95, R96, R100). -/
def encode : Instr → Port × Bytes
  | .ckClr u => (.op u, [0x00])
  | .ckAdd u b => (.op u, [0x01, b])
  | .enc s p => (.op .sender, 0x10 :: s :: p)
  | .dec d => (.op .receiver, 0x11 :: d)
  | .sLoad c => (.op .sender, 0x20 :: c)
  | .sAck d => (.op .sender, 0x21 :: d)
  | .sTimeout => (.op .sender, [0x22])
  | .sClosed => (.op .sender, [0x23])
  | .sCancel => (.op .sender, [0x24])
  | .rFrame d => (.op .receiver, 0x30 :: d)
  | .rTimeout => (.op .receiver, [0x31])
  | .rClosed => (.op .receiver, [0x32])
  | .rStop => (.op .receiver, [0x33])
  | .frame c s p => (.link .receiver, c :: s :: lengthHi p.length :: lengthLo p.length :: p)
  | .ack s => (.link .sender, [s])

/-- The bytes of a table word: bit 0 is the least significant bit of the first byte, a later byte's bits count on. -/
def tableBytes : Nat → Nat → Bytes
  | 0, _ => []
  | n + 1, w => toByte w :: tableBytes n (w / 256)

/-- Operand bytes filled up with zeros to `n`. -/
def padTo (n : Nat) (bs : Bytes) : Bytes := bs ++ List.replicate (n - bs.length) 0

/-- The port and bytes of a row's word, operand bytes the table gives no bits being zeros. 32 bits are a FRAME header, its
payload zeros; 8 bits are an operation if the byte is one of the thirteen codes and an acknowledgment if not (an ACK byte that is also a code cannot be told apart by bits alone; notes/assumptions/6.md). -/
def tableItem (nbits w : Nat) : Port × Bytes :=
  let bs := tableBytes (nbits / 8) w
  match bs with
  | [] => (.op .sender, [])
  | b :: rest =>
    if nbits = 32 then
      let len := lengthOf ((bs.drop 2).headD 0) ((bs.drop 3).headD 0)
      (.link .receiver, bs ++ List.replicate len 0)
    else
      match Op.ofCode b with
      | some o => (.op (o.home.getD .sender), b :: padTo o.form.least rest)
      | Option.none => if nbits = 8 then (.link .sender, [b]) else (.op .sender, bs)

/-- The instruction this decoder reads from the bits of a row of spec/opcode_table.json. -/
def decodeTableWord (nbits w : Nat) : Option Instr :=
  match decode (tableItem nbits w).1 (tableItem nbits w).2 with
  | .instr i => some i
  | .rejected _ => Option.none

end Sys2Proof
end

