-- ==== Sys2Proof/Machine/State.lean ====
section
/-! DEFINITION. The state of the block (10_state.md rules R20 to R45) as plain data: both instances, each unit a structure of
its own, so that no unit's operation can reach another unit's registers (R21). Reset values are those of R45. -/

namespace Sys2Proof.Machine

/-- The errors of 60_exceptions.md R220. Their numbers are `ErrorCode.code` in Machine/Ops.lean; the codes 9 to 15 that no
rule writes have no constructor (notes/assumptions/15.md). -/
inductive ErrorCode where
  /-- Code 0, `None`. -/
  | noError
  | checksumMismatch
  | sequenceMismatch
  | malformed
  | channelTimeout
  | deliveryFailed
  | channelClosed
  | payloadTooLarge
  | cancelled
deriving DecidableEq, Repr

/-- `S.state` (R23). The value 3, which no rule writes, has no constructor (notes/assumptions/15.md). -/
inductive SndState where
  | idle | wait | failed
deriving DecidableEq, Repr

/-- `R.state` (R30). The value 3, which no rule writes, has no constructor (notes/assumptions/15.md). -/
inductive RcvState where
  | run | done | failed
deriving DecidableEq, Repr

/-- The output events of unit SND (R8, R160). -/
inductive SndEvent where
  /-- `Tx(F)`: the frame `F` to the Transport's `send`. -/
  | tx (f : Bytes)
  /-- `Confirmed`, to the host. -/
  | confirmed
  /-- `LoadError(e)`, to the host. -/
  | loadError (e : ErrorCode)
deriving DecidableEq, Repr

/-- The output events of unit RCV (R8, R190). -/
inductive RcvEvent where
  /-- `Sink(p)`: payload `p` appended to the sink. -/
  | sink (p : Bytes)
  /-- `AckTx(b)`: the one-byte datagram `[b]` to the Transport's `send`. -/
  | ackTx (b : Byte)
deriving DecidableEq, Repr

/-- What `ENC` returns (R141). -/
inductive EncResult where
  | payloadTooLarge
  | frame (f : Bytes)
deriving DecidableEq, Repr

/-- What `DEC` returns (R143). -/
inductive DecResult where
  | malformed
  | parsed (sequence : Byte) (payload : Bytes) (checksumOk : Bool)
deriving DecidableEq, Repr

/-- A byte-addressed buffer: (offset, byte) cells with strictly rising offsets (`Memory.wf` in Machine/Ops.lean). An offset
that is not listed holds no value (R27; notes/assumptions/12.md). -/
abbrev Memory := List Host.Cell

/-- The configuration registers of a unit instance (R38). -/
structure Cfg where
  /-- `CFG.MAX_PAYLOAD`. -/
  maxPayload : BitVec 16
  /-- `CFG.SEQ_MOD`. -/
  seqMod : BitVec 9
  /-- `CFG.START_SEQ`. -/
  startSeq : BitVec 8
  /-- `CFG.MAX_RETRY`. -/
  maxRetry : Nat
  /-- `CFG.IDLE_LIMIT`. -/
  idleLimit : Nat
deriving DecidableEq, Repr

/-- Unit SND (R23 to R27) with its configuration, its output list (R7) and the labels of its `classify` (R222). -/
structure Snd where
  cfg : Cfg
  /-- `S.state`. -/
  state : SndState
  /-- `S.err`. -/
  err : ErrorCode
  /-- `S.next_sequence`. -/
  nextSequence : BitVec 8
  /-- `S.retry_count`. -/
  retryCount : Nat
  /-- `S.pend_valid`. -/
  pendValid : Bool
  /-- `S.pend_len`. -/
  pendLen : Nat
  /-- `S.pend_buf`. -/
  pendBuf : Memory
  /-- The output list, oldest event first. -/
  out : List SndEvent
  /-- The `classify` labels, oldest first: history only, read by no rule (notes/assumptions/9.md). -/
  classes : List ErrorCode
deriving DecidableEq, Repr

/-- Unit RCV (R30 to R34) with its configuration, its output list (R7) and the labels of its `classify` (R222). -/
structure Rcv where
  cfg : Cfg
  /-- `R.state`. -/
  state : RcvState
  /-- `R.err`. -/
  err : ErrorCode
  /-- `R.expected_sequence`. -/
  expected : BitVec 8
  /-- `R.last_acked_sequence`. -/
  lastAcked : BitVec 8
  /-- `R.idle_count`. -/
  idleCount : Nat
  /-- The output list, oldest event first. -/
  out : List RcvEvent
  /-- The `classify` labels, oldest first: history only, read by no rule (notes/assumptions/9.md). -/
  classes : List ErrorCode
deriving DecidableEq, Repr

/-- The result of a Transport `receive` (R236, R237). -/
inductive RecvResult where
  | bytes (d : Bytes) | timeout | closed
deriving DecidableEq, Repr

/-- The result of a Transport `send` (R236 to R238). -/
inductive SendResult where
  | ok | timeout | closed
deriving DecidableEq, Repr

/-- The reset of one unit (R260), with the parameters of a unit that has configuration registers. -/
inductive ResetReq where
  | snd (p : Params)
  | rcv (p : Params)
  | ck (u : Side)
deriving DecidableEq, Repr

/-- What the surroundings may present to the block (R234, R236, R237, R260). -/
inductive Request where
  /-- An encoded operation at the operation ports of instance `u`. -/
  | op (u : Side) (bytes : Bytes)
  /-- The result of the outstanding `receive` at instance `u`'s Transport. -/
  | received (u : Side) (r : RecvResult)
  /-- The result of a `send` at instance `u`'s Transport. -/
  | sent (u : Side) (r : SendResult)
  /-- Reset of a unit. -/
  | reset (q : ResetReq)
deriving DecidableEq, Repr

/-- The whole block on both ends of the channel (R20), and what its surroundings have presented (notes/assumptions/2.md). -/
structure State where
  /-- Unit SND, in the sender instance. -/
  snd : Snd
  /-- Unit RCV, in the receiver instance. -/
  rcv : Rcv
  /-- `CK.acc` of the sender instance (R36, R127). -/
  ckSnd : BitVec 8
  /-- `CK.acc` of the receiver instance (R36, R127). -/
  ckRcv : BitVec 8
  /-- What the function port ENC has returned, oldest first (R8; notes/assumptions/8.md). -/
  encOut : List EncResult
  /-- What the function port DEC has returned, oldest first (R8; notes/assumptions/8.md). -/
  decOut : List DecResult
  /-- What is presented and not yet taken, in the order the ports are served. -/
  requests : List Request
deriving DecidableEq, Repr

/-- Why the machine takes no step. -/
inductive Fault where
  /-- Raised by a meaning whose `require` is false (R226): the operation has no step. Safe: the step function leaves the
  request presented, as the spec says, and stops only if nothing else is enabled. -/
  | notEnabled
  /-- Raised by the step function for bytes at an operation port that are no operation of a unit there (R97, R226, R20).
  Safe, as `notEnabled`. -/
  | rejected (e : DecodeError)
  /-- Raised by the retransmission of S.ACK and S.TIMEOUT if a byte of the pending frame holds no value (R27). Safe, and
  met in no state that satisfies the invariant of R28. -/
  | noValue
deriving DecidableEq, Repr

/-- Why the model gives no meaning. -/
inductive Refusal where
  /-- Raised by the dispatch for an instruction without a meaning: none is left. Safe. -/
  | notModelled (mnemonic : String)
  /-- Raised by the reset of a unit with parameters outside R261, where "a model refuses such a configuration" (U5). Safe. -/
  | illegalConfiguration
deriving DecidableEq, Repr

/-- The outcome of an operation on a `σ`: a unit or the whole state. -/
abbrev Out (σ : Type) := Host.Outcome σ Fault Refusal

/-- The configuration registers loaded with the parameters (R38). -/
def Cfg.load (p : Params) : Cfg where
  maxPayload := BitVec.ofNat 16 p.maxPayload
  seqMod := BitVec.ofNat 9 p.seqMod
  startSeq := BitVec.ofNat 8 p.startSeq
  maxRetry := p.maxRetry
  idleLimit := p.idleLimit

/-- Unit SND after its reset (R45, R260). -/
def Snd.reset (p : Params) : Snd where
  cfg := Cfg.load p
  state := .idle
  err := .noError
  nextSequence := BitVec.ofNat 8 p.startSeq
  retryCount := 0
  pendValid := false
  pendLen := 0
  pendBuf := []
  out := []
  classes := []

/-- Unit RCV after its reset (R45, R260): `R.last_acked_sequence` is one behind `START_SEQ` (R33). A receiver whose
`START_SEQ` is one ahead of the sender's therefore re-acknowledges the sender's own first number, and R163 takes that as the
confirmation of a frame that was never accepted; R271 says that such a transfer ends with DeliveryFailed. The model follows
R33, R163 and R195 there, which give each operation its effect: notes/assumptions/27.md. -/
def Rcv.reset (p : Params) : Rcv where
  cfg := Cfg.load p
  state := .run
  err := .noError
  expected := BitVec.ofNat 8 p.startSeq
  lastAcked := BitVec.ofNat 8 ((p.startSeq + p.seqMod - 1) % p.seqMod)
  idleCount := 0
  out := []
  classes := []

/-- The block after the reset of every unit, SND with parameters `p` and RCV with parameters `q`. -/
def State.resetWith (p q : Params) : State where
  snd := Snd.reset p
  rcv := Rcv.reset q
  ckSnd := 0
  ckRcv := 0
  encOut := []
  decOut := []
  requests := []

/-- The machine right after reset, with the standard parameters at both ends. -/
def State.reset : State := State.resetWith Params.standard Params.standard

end Sys2Proof.Machine
end

