-- ==== Sys2Proof/Machine/Ops.lean ====
section
/-! DEFINITION. The named operations every meaning is made of: reading and writing the buffer (`MemRead`, `MemWrite` of
00_scope.md rule R10), `emit`, `classify`, `raise` and `require` (R10), the numbers of the enumerations (10_state.md R23,
R24, R30, R31), the sequence increment (42_sender.md R169), the reset of a unit (70_reset_and_hazards.md R260, R261). -/

namespace Sys2Proof.Machine

/-! ## The buffer -/

/-- The byte at offset `a`; none if it holds no value. -/
def Memory.read : Memory → Nat → Option Byte
  | [], _ => none
  | (k, b) :: m, a => if a = k then some b else Memory.read m a

/-- The buffer with byte `b` at offset `a`, the cells kept in rising order. -/
def Memory.write : Memory → Nat → Byte → Memory
  | [], a, b => [(a, b)]
  | (k, c) :: m, a, b =>
    if a < k then (a, b) :: (k, c) :: m
    else if a = k then (a, b) :: m
    else (k, c) :: Memory.write m a b

/-- Every cell's offset is above `lo` and below those after it. -/
def Memory.risingFrom : Nat → Memory → Bool
  | _, [] => true
  | lo, (k, _) :: m => decide (lo ≤ k) && Memory.risingFrom (k + 1) m

/-- The canonical form: offsets strictly rising. (An unlisted offset holds no value, so no cell can repeat it.) -/
def Memory.wf (m : Memory) : Bool := Memory.risingFrom 0 m

/-- `MemWrite(buf, a, len(v), v)` (R10). -/
def memWrite : Memory → Nat → Bytes → Memory
  | m, _, [] => m
  | m, a, b :: v => memWrite (Memory.write m a b) (a + 1) v

/-- `MemRead(buf, a, n)` (R10); none if one of the bytes holds no value. -/
def memRead (m : Memory) : Nat → Nat → Option Bytes
  | _, 0 => some []
  | a, n + 1 =>
    match Memory.read m a, memRead m (a + 1) n with
    | some b, some v => some (b :: v)
    | _, _ => none

/-! ## Numbers of the enumerations -/

/-- The 4-bit code of an error (R220). -/
def ErrorCode.code : ErrorCode → BitVec 4
  | .noError => 0
  | .checksumMismatch => 1
  | .sequenceMismatch => 2
  | .malformed => 3
  | .channelTimeout => 4
  | .deliveryFailed => 5
  | .channelClosed => 6
  | .payloadTooLarge => 7
  | .cancelled => 8

/-- The 2-bit value of `S.state` (R23). -/
def SndState.code : SndState → BitVec 2
  | .idle => 0
  | .wait => 1
  | .failed => 2

/-- The 2-bit value of `R.state` (R30). -/
def RcvState.code : RcvState → BitVec 2
  | .run => 0
  | .done => 1
  | .failed => 2

/-! ## What the host reads (R21, R39) -/

/-- The status registers `S.state`, `S.err` as the host reads them. -/
def State.sndStatus (s : State) : BitVec 2 × BitVec 4 := (s.snd.state.code, s.snd.err.code)

/-- The status registers `R.state`, `R.err` as the host reads them. -/
def State.rcvStatus (s : State) : BitVec 2 × BitVec 4 := (s.rcv.state.code, s.rcv.err.code)

/-! ## The primitives of the pseudocode (R10) -/

/-- `require c` at the head of an operation: when `c` is false the operation is not enabled (R10, R226). -/
def require {σ : Type} (c : Bool) (o : Out σ) : Out σ :=
  match c with
  | true => o
  | false => .fault .notEnabled

/-- `emit` at unit SND. -/
def Snd.emit (u : Snd) (e : SndEvent) : Snd := { u with out := u.out ++ [e] }

/-- `emit` at unit RCV. -/
def Rcv.emit (u : Rcv) (e : RcvEvent) : Rcv := { u with out := u.out ++ [e] }

/-- `classify E` at unit SND (R222): a label in the history, no register. -/
def Snd.classify (u : Snd) (e : ErrorCode) : Snd := { u with classes := u.classes ++ [e] }

/-- `classify E` at unit RCV (R222): a label in the history, no register. -/
def Rcv.classify (u : Rcv) (e : ErrorCode) : Rcv := { u with classes := u.classes ++ [e] }

/-- `raise E` at unit SND: entry into the terminal error (R228). There is no return from it but reset (R229). -/
def Snd.raise (u : Snd) (e : ErrorCode) : Snd := { u with state := .failed, err := e }

/-- `raise E` at unit RCV: entry into the terminal error (R228). There is no return from it but reset (R229). -/
def Rcv.raise (u : Rcv) (e : ErrorCode) : Rcv := { u with state := .failed, err := e }

/-- `(s + 1) mod SEQ_MOD` (R169(a), R202(a)). -/
def seqNext (c : Cfg) (s : BitVec 8) : BitVec 8 := BitVec.ofNat 8 ((s.toNat + 1) % c.seqMod.toNat)

/-! ## The pending frame (R27) -/

/-- `MemWrite(S.pend_buf, 0, len(F), F)` with `S.pend_len`, `S.pend_valid` (R162). -/
def Snd.storePending (u : Snd) (f : Bytes) : Snd :=
  { u with pendBuf := memWrite u.pendBuf 0 f, pendLen := f.length, pendValid := true }

/-- No frame is pending: `S.pend_valid <- 0`. The bytes of `S.pend_buf` then hold no value (R27, R164), so none is listed;
`S.pend_len` is left as it is (R164; notes/assumptions/13.md). -/
def Snd.dropPending (u : Snd) : Snd := { u with pendValid := false, pendBuf := [] }

/-- The pending frame: `MemRead(S.pend_buf, 0, S.pend_len)` (R27). -/
def Snd.pending (u : Snd) : Option Bytes := memRead u.pendBuf 0 u.pendLen

/-! ## Units inside the whole state (R21) -/

/-- An operation of unit SND, on the whole state. -/
def State.onSnd (s : State) (o : Out Snd) : Out State :=
  match o with
  | .next u => .next { s with snd := u }
  | .fault f => .fault f
  | .refused r => .refused r

/-- An operation of unit RCV, on the whole state. -/
def State.onRcv (s : State) (o : Out Rcv) : Out State :=
  match o with
  | .next u => .next { s with rcv := u }
  | .fault f => .fault f
  | .refused r => .refused r

/-- `CK.acc` of instance `u`. -/
def State.ck (s : State) (u : Side) : BitVec 8 :=
  match u with
  | .sender => s.ckSnd
  | .receiver => s.ckRcv

/-- The state with `CK.acc` of instance `u` written. -/
def State.putCk (s : State) (u : Side) (v : BitVec 8) : State :=
  match u with
  | .sender => { s with ckSnd := v }
  | .receiver => { s with ckRcv := v }

/-! ## Reset (R260, R261) -/

/-- The legal parameters of R261. -/
def paramsLegal (p : Params) : Bool :=
  decide (1 ≤ p.maxPayload) && decide (p.maxPayload ≤ 65535) && decide (2 ≤ p.seqMod) && decide (p.seqMod ≤ 256)
    && decide (p.startSeq < p.seqMod)

/-- The reset of one unit: every register of it at its reset value, every other unit untouched, nothing emitted (R260);
parameters outside R261 are refused (93_implementation_defined.md U5). What is presented stays presented, Transport results of
before the reset among it: of the two ways R263 leaves to the adapter (drop them, or let them arrive as stale ones) the state
takes the second, and the first is a list of requests without them (notes/assumptions/28.md). -/
def resetUnit (q : ResetReq) (s : State) : Out State :=
  match q with
  | .snd p =>
    match paramsLegal p with
    | true => .next { s with snd := Snd.reset p }
    | false => .refused .illegalConfiguration
  | .rcv p =>
    match paramsLegal p with
    | true => .next { s with rcv := Rcv.reset p }
    | false => .refused .illegalConfiguration
  | .ck u => .next (s.putCk u 0)

end Sys2Proof.Machine
end

