-- ==== Sys2Proof/Machine/Operands.lean ====
section
/-! DEFINITION. The fields of a frame (30_encoding.md rules R90 to R92, 20_memory.md R61, R69) and the checksum function
(40_checksum.md rule R120). -/

namespace Sys2Proof.Machine

/-- `csum255(p)`: the bytes added as natural numbers, the total reduced modulo 255 (R120). -/
def csum255 (p : Bytes) : Nat := (p.map BitVec.toNat).sum % csumMod

/-- The byte `MemRead(d, k, 1)[0]` of a datagram; used only at offsets below its length. -/
def byteAt (d : Bytes) (k : Nat) : Byte := d.getD k 0

/-- `L`, the 16-bit length field of a datagram of four bytes or more (R92). -/
def lengthField (d : Bytes) : Nat := lengthOf (byteAt d 2) (byteAt d 3)

/-- The payload `MemRead(d, 4, L)` of a datagram whose length is `4 + L` (R92). -/
def payloadField (d : Bytes) : Bytes := (d.drop hdrLen).take (lengthField d)

/-- The frame with a given checksum byte, sequence byte and payload (R90). -/
def assemble (c s : Byte) (p : Bytes) : Bytes := c :: s :: lengthHi p.length :: lengthLo p.length :: p

end Sys2Proof.Machine
end

