-- ==== Sys2Proof/Machine/Flags.lean ====
section
/-! DEFINITION. The conditions computed inside an operation and consumed by it (10_state.md rule R42), and the bound tests
of the two counters. No flag is stored. -/

namespace Sys2Proof.Machine

/-- `malformed(d)` (R144): too short, length field above `MAX_PAYLOAD`, or length field not that of the datagram. -/
def malformed (maxPayload : Nat) (d : Bytes) : Bool :=
  decide (d.length < hdrLen) || decide (maxPayload < lengthField d) || decide (d.length ≠ hdrLen + lengthField d)

/-- `checksum_ok` (R145): the recomputed checksum equals the stored byte. -/
def checksumOk (d : Bytes) : Bool := csum255 (payloadField d) == (byteAt d 0).toNat

/-- `ack_match` (R163): exactly one byte, equal to `S.next_sequence`. -/
def ackMatch (d : Bytes) (seq : Byte) : Bool := d == [seq]

/-- `seq_match` (R195): equality of two bytes. -/
def seqMatch (seq expected : Byte) : Bool := seq == expected

/-- The bound test of RETRY, made on the incremented counter: a strict "exceeds" (R165, R169(c)). -/
def retryExceeded (c : Cfg) (n : Nat) : Bool := decide (c.maxRetry < n)

/-- The test of R.TIMEOUT on the incremented counter: equality (R198, R202(c)). -/
def idleReached (c : Cfg) (i : Nat) : Bool := i == c.idleLimit

end Sys2Proof.Machine
end

