-- ==== Sys2Proof/Machine/Checksum.lean ====
section
/-! DEFINITION. Unit CK (40_checksum.md): `CK.CLR` (R123) and `CK.ADD` (R124). -/

namespace Sys2Proof.Machine

/-- The adder of R124: a 9-bit sum and one conditional subtraction of 255. -/
def ckSum (acc b : Byte) : Byte :=
  let t := acc.toNat + b.toNat
  if csumMod ≤ t then toByte (t - csumMod) else toByte t

/-- `CK.CLR` (R123): always enabled. -/
def execCkClr (u : Side) (s : State) : Out State := .next (s.putCk u 0)

/-- `CK.ADD b` (R124): always enabled. -/
def execCkAdd (u : Side) (b : Byte) (s : State) : Out State := .next (s.putCk u (ckSum (s.ck u) b))

end Sys2Proof.Machine
end

