-- ==== Sys2Proof/Machine/Codec.lean ====
section
/-! DEFINITION. Unit CODEC (41_framecodec.md): the pure functions `ENC` (R141) and `DEC` (R143 to R145), and the two
operations at its function ports. The encoder stands in the sender instance and reads that instance's copy of
`CFG.MAX_PAYLOAD`, the decoder in the receiver instance (R20, R38; notes/assumptions/20.md). -/

namespace Sys2Proof.Machine

/-- `ENC(s, p)` (R141). -/
def encodeFrame (maxPayload : Nat) (s : Byte) (p : Bytes) : EncResult :=
  if maxPayload < p.length then .payloadTooLarge else .frame (assemble (toByte (csum255 p)) s p)

/-- `DEC(d)` (R143). -/
def decodeFrame (maxPayload : Nat) (d : Bytes) : DecResult :=
  match malformed maxPayload d with
  | true => .malformed
  | false => .parsed (byteAt d 1) (payloadField d) (checksumOk d)

/-- `ENC s, p` at the function port (R140, R141): the result is returned, no register is read or written. -/
def execEnc (seq : Byte) (p : Bytes) (s : State) : Out State :=
  .next { s with encOut := s.encOut ++ [encodeFrame s.snd.cfg.maxPayload.toNat seq p] }

/-- `DEC d` at the function port (R140, R143): the result is returned, no register is read or written. -/
def execDec (d : Bytes) (s : State) : Out State :=
  .next { s with decOut := s.decOut ++ [decodeFrame s.rcv.cfg.maxPayload.toNat d] }

end Sys2Proof.Machine
end

