-- ==== Sys2Proof/Machine/Receiver.lean ====
section
/-! DEFINITION. Unit RCV (43_receiver.md): the four operations and the shared procedures REJECT (R192) and ACCEPT (R196),
written on the unit alone and placed in the whole state by `State.onRcv`. -/

namespace Sys2Proof.Machine

/-- REJECT(E) (R192 to R195): the last acknowledgment again, no delivery. -/
def Rcv.reject (u : Rcv) (e : ErrorCode) : Rcv := (u.classify e).emit (.ackTx u.lastAcked)

/-- ACCEPT(seq, p) (R196): delivery first, acknowledgment second. -/
def Rcv.accept (u : Rcv) (seq : Byte) (p : Bytes) : Rcv :=
  { (u.emit (.sink p)).emit (.ackTx seq) with lastAcked := seq, expected := seqNext u.cfg u.expected }

/-- `R.FRAME d` on the unit (R192): malformed, then checksum, then sequence. -/
def Rcv.frameArrived (d : Bytes) (u : Rcv) : Out Rcv :=
  require (u.state == .run)
    (let v : Rcv := { u with idleCount := 0 }
    match decodeFrame v.cfg.maxPayload.toNat d with
    | .malformed => .next (v.reject .malformed)
    | .parsed _ _ false => .next (v.reject .checksumMismatch)
    | .parsed seq p true =>
      match seqMatch seq v.expected with
      | false => .next (v.reject .sequenceMismatch)
      | true => .next (v.accept seq p))

/-- `R.TIMEOUT` on the unit (R198). -/
def Rcv.timedOut (u : Rcv) : Out Rcv :=
  require (u.state == .run)
    (let v := u.classify .channelTimeout
    if 0 < v.cfg.idleLimit then
      let w : Rcv := { v with idleCount := v.idleCount + 1 }
      match idleReached w.cfg w.idleCount with
      | true => .next { w with state := .done }
      | false => .next w
    else .next v)

/-- `R.CLOSED` on the unit (R199). -/
def Rcv.closed (u : Rcv) : Out Rcv :=
  require (u.state == .run) (.next (u.raise .channelClosed))

/-- `R.STOP` on the unit (R200). -/
def Rcv.stop (u : Rcv) : Out Rcv :=
  require (u.state == .run) (.next { u with state := .done })

/-- `R.FRAME d` (R192 to R196). -/
def execRFrame (d : Bytes) (s : State) : Out State := s.onRcv (s.rcv.frameArrived d)

/-- `R.TIMEOUT` (R198). -/
def execRTimeout (s : State) : Out State := s.onRcv s.rcv.timedOut

/-- `R.CLOSED` (R199). -/
def execRClosed (s : State) : Out State := s.onRcv s.rcv.closed

/-- `R.STOP` (R200). -/
def execRStop (s : State) : Out State := s.onRcv s.rcv.stop

end Sys2Proof.Machine
end

