-- ==== Sys2Proof/Machine/Sender.lean ====
section
/-! DEFINITION. Unit SND (42_sender.md): the five operations and the shared procedures CONFIRM (R164) and RETRY (R165),
written on the unit alone and placed in the whole state by `State.onSnd`. -/

namespace Sys2Proof.Machine

/-- `S.LOAD c` on the unit (R162). -/
def Snd.load (c : Bytes) (u : Snd) : Out Snd :=
  require (u.state == .idle)
    (match encodeFrame u.cfg.maxPayload.toNat u.nextSequence c with
    | .payloadTooLarge => .next (u.emit (.loadError .payloadTooLarge))
    | .frame f => .next (({ u.storePending f with retryCount := 0, state := .wait } : Snd).emit (.tx f)))

/-- CONFIRM (R164). -/
def Snd.confirm (u : Snd) : Snd :=
  ({ u.dropPending with retryCount := 0, nextSequence := seqNext u.cfg u.nextSequence, state := .idle } : Snd).emit .confirmed

/-- RETRY (R165): the increment, then the bound test, then the identical frame or `raise DeliveryFailed`. -/
def Snd.retry (u : Snd) : Out Snd :=
  let v : Snd := { u with retryCount := u.retryCount + 1 }
  match retryExceeded v.cfg v.retryCount with
  | true => .next (v.raise .deliveryFailed)
  | false =>
    match v.pending with
    | some f => .next (v.emit (.tx f))
    | none => .fault .noValue

/-- `S.ACK d` on the unit (R163). -/
def Snd.ackArrived (d : Bytes) (u : Snd) : Out Snd :=
  require (u.state == .wait)
    (match ackMatch d u.nextSequence with
    | true => .next u.confirm
    | false => u.retry)

/-- `S.TIMEOUT` on the unit (R166). -/
def Snd.timedOut (u : Snd) : Out Snd :=
  require (u.state == .wait) (u.classify .channelTimeout).retry

/-- `S.CLOSED` on the unit (R167). -/
def Snd.closed (u : Snd) : Out Snd :=
  require (u.state == .idle || u.state == .wait) (.next (u.raise .channelClosed))

/-- `S.CANCEL` on the unit (R168). -/
def Snd.cancel (u : Snd) : Out Snd :=
  require (u.state == .idle || u.state == .wait) (.next (u.raise .cancelled))

/-- `S.LOAD c` (R162). -/
def execSLoad (c : Bytes) (s : State) : Out State := s.onSnd (s.snd.load c)

/-- `S.ACK d` (R163 to R165). -/
def execSAck (d : Bytes) (s : State) : Out State := s.onSnd (s.snd.ackArrived d)

/-- `S.TIMEOUT` (R166, R165). -/
def execSTimeout (s : State) : Out State := s.onSnd s.snd.timedOut

/-- `S.CLOSED` (R167). -/
def execSClosed (s : State) : Out State := s.onSnd s.snd.closed

/-- `S.CANCEL` (R168). -/
def execSCancel (s : State) : Out State := s.onSnd s.snd.cancel

end Sys2Proof.Machine
end

