-- ==== Sys2Proof/Machine/Wire.lean ====
section
/-! DEFINITION. The two wire formats as arrivals: the transport adapter presents a frame datagram at the receiver's end as
R.FRAME of its bytes (60_exceptions.md R237) and an acknowledgment datagram at the sender's end as S.ACK of its bytes (R236;
notes/assumptions/5.md). -/

namespace Sys2Proof.Machine

/-- A datagram in format FRAME (R90) reaches the receiver. -/
def execFrame (c seq : Byte) (p : Bytes) (s : State) : Out State :=
  s.onRcv (s.rcv.frameArrived (assemble c seq p))

/-- A datagram in format ACK (R94) reaches the sender. -/
def execAck (seq : Byte) (s : State) : Out State := s.onSnd (s.snd.ackArrived [seq])

end Sys2Proof.Machine
end

