-- ==== Sys2Proof/Machine/Dispatch.lean ====
section
/-! DEFINITION. One arm per constructor of `Instr`, each one call of that instruction's meaning. -/

namespace Sys2Proof.Machine

def exec (i : Instr) (s : State) : Host.Outcome State Fault Refusal :=
  match i with
  | .ckClr u => Sys2Proof.Machine.execCkClr u s
  | .ckAdd u b => Sys2Proof.Machine.execCkAdd u b s
  | .enc q p => Sys2Proof.Machine.execEnc q p s
  | .dec d => Sys2Proof.Machine.execDec d s
  | .sLoad c => Sys2Proof.Machine.execSLoad c s
  | .sAck d => Sys2Proof.Machine.execSAck d s
  | .sTimeout => Sys2Proof.Machine.execSTimeout s
  | .sClosed => Sys2Proof.Machine.execSClosed s
  | .sCancel => Sys2Proof.Machine.execSCancel s
  | .rFrame d => Sys2Proof.Machine.execRFrame d s
  | .rTimeout => Sys2Proof.Machine.execRTimeout s
  | .rClosed => Sys2Proof.Machine.execRClosed s
  | .rStop => Sys2Proof.Machine.execRStop s
  | .frame c q p => Sys2Proof.Machine.execFrame c q p s
  | .ack q => Sys2Proof.Machine.execAck q s

end Sys2Proof.Machine
end

