-- ==== Sys2Proof/Machine/Adapter.lean ====
section
/-! DEFINITION. How a presented request becomes an operation (60_exceptions.md R234 to R238, the transport adapter), and how
the ports are served: one operation at a time, the first enabled one; a request that is not enabled is not taken and stays
presented (R226, 92_eei_decisions.md D17). -/

namespace Sys2Proof.Machine

/-- What a request asks of the block. -/
inductive Presented where
  | instr (i : Instr)
  /-- Nothing reaches a unit (a `send` that succeeded or timed out, R238). -/
  | nothing
  | reset (q : ResetReq)
  | rejected (e : DecodeError)
deriving DecidableEq, Repr

/-- The operation that reports a receive timeout at instance `u` (R236, R237). -/
def timeoutInstr : Side → Instr
  | .sender => .sTimeout
  | .receiver => .rTimeout

/-- The operation that reports a closed channel at instance `u` (R236, R237). -/
def closedInstr : Side → Instr
  | .sender => .sClosed
  | .receiver => .rClosed

/-- The bytes of a port as an operation. -/
def presentBytes (p : Port) (bs : Bytes) : Presented :=
  match decode p bs with
  | .instr i => .instr i
  | .rejected e => .rejected e

/-- The transport adapter and the operation ports. -/
def present : Request → Presented
  | .op u bs => presentBytes (.op u) bs
  | .received u (.bytes d) => presentBytes (.link u) d
  | .received u .timeout => .instr (timeoutInstr u)
  | .received u .closed => .instr (closedInstr u)
  | .sent u .closed => .instr (closedInstr u)
  | .sent _ .ok => .nothing
  | .sent _ .timeout => .nothing
  | .reset q => .reset q

/-- What comes of one request when it is served. -/
def attempt (r : Request) (s : State) : Out State :=
  match present r with
  | .instr i => exec i s
  | .nothing => .next s
  | .reset q => resetUnit q s
  | .rejected e => .fault (.rejected e)

/-- The fault says "not enabled" (R226: `require` false, reserved code, or an operand that does not fit). -/
def Fault.holds : Fault → Bool
  | .notEnabled => true
  | .rejected _ => true
  | .noValue => false

/-- The state with the requests `rs` presented. -/
def State.presenting (s : State) (rs : List Request) : State := { s with requests := rs }

/-- Serve the first enabled request of `todo`; those of `held` were found not enabled and stay presented. When none is
enabled the machine has no step: with nothing presented it waits, unchanged (R243; notes/assumptions/4.md), and otherwise it
answers why the first request is not enabled. -/
def serveFrom (s : State) : List Request → List Request → Out State
  | held, [] =>
    match held with
    | [] => .next s
    | r :: rs => attempt r (s.presenting rs)
  | held, r :: todo =>
    match attempt r (s.presenting (held ++ todo)) with
    | .fault f =>
      match f.holds with
      | true => serveFrom s (held ++ [r]) todo
      | false => .fault f
    | .next t => .next t
    | .refused e => .refused e

/-- One step of the block: the first enabled request. -/
def serve (s : State) : Out State := serveFrom s [] s.requests

/-- The request that presents given bytes at a port. -/
def requestOf : Port → Bytes → Request
  | .op u, bs => .op u bs
  | .link u, d => .received u (.bytes d)

/-- The state with nothing presented but the bytes of a table row's word (see `tableItem`). -/
def presentTableWord (s : State) (nbits w : Nat) : State :=
  s.presenting [requestOf (tableItem nbits w).1 (tableItem nbits w).2]

end Sys2Proof.Machine
end

