-- ==== Sys2Proof/Machine/Step.lean ====
section
/-! DEFINITION. One step. The block fetches no instructions (10_state.md R40): its next operation is the first enabled one of
those its surroundings present. -/

namespace Sys2Proof.Machine

/-- One step of the machine: it serves one request. -/
def step (s : State) : Host.Outcome State Fault Refusal := serve s

/-- The state in which exactly the instruction of a row of spec/opcode_table.json is presented. -/
def State.withFetchWord (s : State) (nbits w : Nat) : State := presentTableWord s nbits w

end Sys2Proof.Machine
end

