-- ==== Sys2Proof/Machine/Fair.lean ====
section
/-! DEFINITION. Executions without end, and the fairness of the transport adapter that every statement about progress rests on
(70_reset_and_hazards.md R287; 60_exceptions.md R236, R237, R239; notes/assumptions/25.md). It is a premise about the
environment, carried by name; no unit contains it. -/

namespace Sys2Proof.Machine

/-- An execution: the state at each moment, and the request served at that moment (none: nothing happens, R243). -/
structure Execution where
  state : Nat → State
  event : Nat → Option Request

/-- Each state comes from the one before by the request served between them, as a step serves it. -/
def Execution.valid (e : Execution) : Prop :=
  ∀ n, match e.event n with
    | none => e.state (n + 1) = e.state n
    | some r => attempt r (e.state n) = .next (e.state (n + 1))

/-- A `receive` of the Transport is outstanding at instance `u`: at the sender one follows every `Tx`, so one is open in WAIT
(R236), and at the receiver the adapter keeps one open in RUN (R237). -/
def receiveOutstanding (u : Side) (s : State) : Prop :=
  match u with
  | .sender => s.snd.state = .wait
  | .receiver => s.rcv.state = .run

/-- The fairness of R287: "every outstanding `receive` is eventually answered", by bytes, Timeout or Closed. One that the unit
no longer waits for (S.CANCEL, R.STOP, a reset) needs no answer. -/
def Execution.fair (e : Execution) (u : Side) : Prop :=
  ∀ n, receiveOutstanding u (e.state n) →
    ∃ m, n ≤ m ∧ ((∃ r, e.event m = some (.received u r)) ∨ ¬ receiveOutstanding u (e.state m))

/-- From moment `n` on no datagram is presented to the receiver. -/
def Execution.silentFrom (e : Execution) (n : Nat) : Prop :=
  ∀ m r, n ≤ m → e.event m = some r →
    (∀ d, present r ≠ .instr (.rFrame d)) ∧ (∀ c q p, present r ≠ .instr (.frame c q p))

end Sys2Proof.Machine
end

