-- ==== Sys2Proof/Machine/Pseudo.lean ====
section
/-! DEFINITION. The pseudo-operations of 30_encoding.md rule R101: named compositions of operations. CSUM (40_checksum.md
R125), CHUNKS (42_sender.md R170), SEND (R171), RUN (43_receiver.md R201). What the environment answers is a list given as
an argument: the transport adapter and the host choose it (60_exceptions.md R236, R237). A list that ends too early ends in
`waiting` or `running`; that it does not is the fairness of the adapter (70_reset_and_hazards.md R287, Machine/Fair.lean). -/

namespace Sys2Proof.Machine

/-- Operations one after the other, as long as each is enabled. -/
def execAll : List Instr → State → Out State
  | [], s => .next s
  | i :: is, s =>
    match exec i s with
    | .next t => execAll is t
    | .fault f => .fault f
    | .refused r => .refused r

/-! ## CSUM (R125) -/

/-- `CSUM p` at the checksum generator of instance `u`: `CK.CLR`, then `CK.ADD p[i]` in order. -/
def csumOps (u : Side) (p : Bytes) : List Instr := .ckClr u :: p.map (.ckAdd u)

/-! ## CHUNKS (R170) -/

/-- At most `fuel` chunks of at most `m` bytes. -/
def chunksFuel (m : Nat) : Nat → Bytes → List Bytes
  | 0, _ => []
  | _ + 1, [] => []
  | n + 1, b :: d => (b :: d).take m :: chunksFuel m n ((b :: d).drop m)

/-- `CHUNKS data` for `MAX_PAYLOAD` = `m`, which is at least 1 (R261): a chunk holds a byte, so `len(data)` chunks are enough. -/
def chunks (m : Nat) (data : Bytes) : List Bytes := chunksFuel m data.length data

/-! ## SEND (R171) -/

/-- What may end a wait of the sender: one result of the Transport, or the host's cancellation (R171, R235). -/
inductive Answer where
  | datagram (d : Bytes) | timeout | closed | cancel
deriving DecidableEq, Repr

/-- The operation an answer is presented as (R236). -/
def Answer.instr : Answer → Instr
  | .datagram d => .sAck d
  | .timeout => .sTimeout
  | .closed => .sClosed
  | .cancel => .sCancel

/-- How `SEND` stands after the answers given. -/
inductive SendEnd where
  /-- `Ok`, with the answers not used. -/
  | ok (s : State) (rest : List Answer)
  /-- `Err(S.err)`. -/
  | err (e : ErrorCode) (s : State) (rest : List Answer)
  /-- The answers have run out while a frame is pending. -/
  | waiting (s : State)
  /-- S.LOAD reported LoadError: a chunk above `MAX_PAYLOAD`, which CHUNKS never makes (notes/assumptions/23.md). -/
  | loadError (s : State)
  /-- An operation had no step. -/
  | stopped (f : Fault)
  | refused (r : Refusal)
deriving DecidableEq, Repr

/-- "repeat ... until Confirmed was emitted or S.state = FAILED", then `k` with the answers left (R171). A unit in WAIT that
is IDLE after an answer has emitted Confirmed (R161). -/
def awaitThen (k : State → List Answer → SendEnd) : List Answer → State → SendEnd
  | [], s =>
    match s.snd.state with
    | .idle => k s []
    | .failed => .err s.snd.err s []
    | .wait => .waiting s
  | a :: as, s =>
    match s.snd.state with
    | .idle => k s (a :: as)
    | .failed => .err s.snd.err s (a :: as)
    | .wait =>
      match exec a.instr s with
      | .next t => awaitThen k as t
      | .fault f => .stopped f
      | .refused r => .refused r

/-- The loop of `SEND` over the chunks (R171). -/
def sendChunks : List Bytes → State → List Answer → SendEnd
  | [], s, as => .ok s as
  | c :: cs, s, as =>
    match exec (.sLoad c) s with
    | .next t =>
      match t.snd.state with
      | .wait => awaitThen (sendChunks cs) as t
      | .idle => .loadError t
      | .failed => .err t.snd.err t as
    | .fault f => .stopped f
    | .refused r => .refused r

/-- `SEND data` with the answers `as` (R171). -/
def send (data : Bytes) (s : State) (as : List Answer) : SendEnd :=
  sendChunks (chunks s.snd.cfg.maxPayload.toNat data) s as

/-! ## RUN (R201) -/

/-- What may be presented to a running receiver (R201). -/
inductive RcvInput where
  | datagram (d : Bytes) | timeout | closed | stop
deriving DecidableEq, Repr

/-- The operation an input is presented as (R237). -/
def RcvInput.instr : RcvInput → Instr
  | .datagram d => .rFrame d
  | .timeout => .rTimeout
  | .closed => .rClosed
  | .stop => .rStop

/-- How `RUN` stands after the inputs given. -/
inductive RunEnd where
  /-- `Ok` (R.state = DONE), with the inputs not used. -/
  | ok (s : State) (rest : List RcvInput)
  /-- `Err(R.err)` (R.state = FAILED). -/
  | err (e : ErrorCode) (s : State) (rest : List RcvInput)
  /-- The inputs have run out in RUN. -/
  | running (s : State)
  | stopped (f : Fault)
  | refused (r : Refusal)
deriving DecidableEq, Repr

/-- `RUN sink` (R201): "while R.state = RUN". -/
def runReceiver : List RcvInput → State → RunEnd
  | [], s =>
    match s.rcv.state with
    | .run => .running s
    | .done => .ok s []
    | .failed => .err s.rcv.err s []
  | a :: as, s =>
    match s.rcv.state with
    | .done => .ok s (a :: as)
    | .failed => .err s.rcv.err s (a :: as)
    | .run =>
      match exec a.instr s with
      | .next t => runReceiver as t
      | .fault f => .stopped f
      | .refused r => .refused r

/-! ## What the output lists say -/

/-- The frames transmitted since reset, oldest first: the `Tx` events. -/
def SndEvent.frame? : SndEvent → Option Bytes
  | .tx f => some f
  | .confirmed => none
  | .loadError _ => none

/-- The payload of a `Sink` event. -/
def RcvEvent.payload? : RcvEvent → Option Bytes
  | .sink p => some p
  | .ackTx _ => none

/-- The byte of an `AckTx` event. -/
def RcvEvent.ackByte? : RcvEvent → Option Byte
  | .sink _ => none
  | .ackTx b => some b

/-- The frames unit SND has transmitted since its reset. -/
def Snd.frames (u : Snd) : List Bytes := u.out.filterMap SndEvent.frame?

/-- How many frames unit SND has had confirmed since its reset. -/
def Snd.confirmations (u : Snd) : Nat := u.out.count .confirmed

/-- The payloads unit RCV has delivered since its reset, in order. -/
def Rcv.delivered (u : Rcv) : List Bytes := u.out.filterMap RcvEvent.payload?

/-- The sink: the delivered payloads, appended (R201). -/
def Rcv.sink (u : Rcv) : Bytes := u.delivered.flatten

/-- The acknowledgment bytes unit RCV has sent since its reset. -/
def Rcv.acks (u : Rcv) : List Byte := u.out.filterMap RcvEvent.ackByte?

end Sys2Proof.Machine
end

