-- ==== Sys2Proof/Machine/Link.lean ====
section
/-! DEFINITION. The whole link, for statements about both ends together: the block of State and a channel between its two
instances (20_memory.md R66 to R68, 70_reset_and_hazards.md R277, R278). The channel is the environment's, no register of the
block (10_state.md R44; notes/assumptions/18.md). Two channels are given: the fault-free one of R68, on which the receiver may
see any number of R.TIMEOUT while no frame is in flight, and the one of R278, which loses, duplicates and delays without bound
but delivers in sending order, and whose corruptions are all detected. -/

namespace Sys2Proof.Machine

/-! ## The fault-free channel (R68) -/

/-- The silences the receiver sees around one chunk: how many R.TIMEOUT come before the chunk is presented, and how many while
the acknowledgment of each of its transmissions is on the way, in order (none where the list has run out). No frame is in flight
at any of these times, so R68 allows them; between a transmission and its arrival, and so between an acknowledgment that makes
the sender transmit again and the arrival of that frame, it allows none. -/
structure Silence where
  beforeLoad : Nat
  beforeAck : List Nat
deriving DecidableEq, Repr

/-- No R.TIMEOUT at all: what a list of silences that has run out stands for. -/
def Silence.none : Silence := { beforeLoad := 0, beforeAck := [] }

/-- `n` times R.TIMEOUT. -/
def silent (n : Nat) (s : State) : Out State := execAll (List.replicate n .rTimeout) s

/-- One operation after another. -/
def andThen (o : Out State) (k : State → Out State) : Out State :=
  match o with
  | .next s => k s
  | .fault f => .fault f
  | .refused r => .refused r

/-- A pending frame over the fault-free channel, for at most `n` transmissions: as long as the sender waits, the frame it
transmitted last is presented as R.FRAME, and the acknowledgment that answered it as S.ACK, with the silences `ws` before the
acknowledgments. An acknowledgment that does not match makes the sender transmit again or fail (R165), and what it transmits is
delivered and answered in turn: "every datagram given to `Tx` is delivered to the receiver exactly once" (R68). -/
def exchange : Nat → List Nat → State → Out State
  | 0, _, s => .next s
  | n + 1, ws, s =>
    match s.snd.state with
    | .wait =>
      andThen (exec (.rFrame (s.snd.frames.getLastD [])) s) (fun v =>
      andThen (silent (ws.headD 0) v) (fun w =>
      andThen (exec (.sAck v.rcv.acks.getLast?.toList) w) (exchange n ws.tail)))
    | .idle => .next s
    | .failed => .next s

/-- One chunk over the fault-free channel: S.LOAD and the exchange that follows, until the frame is confirmed or the sender has
failed. MAX_RETRY + 1 transmissions are all there can be (R172). When a silence has brought the receiver to DONE (R198), it takes
no further frame, and a frame transmitted then leaves this without a next state (R272, R283(b)). -/
def deliverChunk (p : Silence) (c : Bytes) (s : State) : Out State :=
  andThen (silent p.beforeLoad s) (fun r =>
  andThen (exec (.sLoad c) r) (exchange (s.snd.cfg.maxRetry + 1) p.beforeAck))

/-- Chunks in order over the fault-free channel, with the silences `ps`; the one after the last chunk comes at the end. A sender
that has failed is presented no further chunk (R171). -/
def deliverChunks : List Bytes → List Silence → State → Out State
  | [], ps, s => silent (ps.headD .none).beforeLoad s
  | c :: cs, ps, s =>
    andThen (deliverChunk (ps.headD .none) c s) (fun t =>
      match t.snd.state with
      | .failed => silent (ps.tail.headD .none).beforeLoad t
      | .idle => deliverChunks cs ps.tail t
      | .wait => deliverChunks cs ps.tail t)

/-- `SEND data` and `RUN` together over the fault-free channel (R277), with the silences `ps`. -/
def transfer (ps : List Silence) (data : Bytes) (s : State) : Out State :=
  deliverChunks (chunks s.snd.cfg.maxPayload.toNat data) ps s

/-- Among `n` chunks that are each confirmed at the first transmission no silence reaches the idle limit, the count being
`idle` already: between two frames fewer than `limit` R.TIMEOUT come, those before and after the acknowledgment taken together
(R198). With limit 0 every silence fits. -/
def silencesFit (limit : Nat) : Nat → Nat → List Silence → Prop
  | idle, 0, ps => limit = 0 ∨ idle + (ps.headD .none).beforeLoad < limit
  | idle, n + 1, ps =>
    (limit = 0 ∨ idle + (ps.headD .none).beforeLoad < limit)
      ∧ silencesFit limit ((ps.headD .none).beforeAck.headD 0) n ps.tail

/-! ## The in-order channel of R278 -/

/-- The block and the channel. In each direction the datagrams sent so far are the unit's own output list, and a cursor says
which of them was delivered last: a later delivery takes the same one again (duplication) or a later one (those passed over
are lost), so copies are delivered in sending order. -/
structure Link where
  hw : State
  /-- The chunks the host has not presented yet. -/
  todo : List Bytes
  /-- The index, among the frames sent, of the last one delivered (0 before any). -/
  frameCursor : Nat
  /-- The index, among the acknowledgments sent, of the last one delivered (0 before any). -/
  ackCursor : Nat
deriving DecidableEq, Repr

/-- What the environment may do next. -/
inductive LinkMove where
  /-- The host presents the next chunk. -/
  | load
  /-- A copy of the `k`-th frame sent reaches the receiver. -/
  | frameCopy (k : Nat)
  /-- An altered frame copy reaches the receiver. -/
  | frameAltered (d : Bytes)
  /-- A copy of the `k`-th acknowledgment sent reaches the sender. -/
  | ackCopy (k : Nat)
  /-- An altered acknowledgment reaches the sender. -/
  | ackAltered (d : Bytes)
  /-- A timeout, a closed channel or a host signal, at either end. -/
  | sndTimeout | sndClosed | sndCancel | rcvTimeout | rcvClosed | rcvStop
deriving DecidableEq, Repr

/-- The state an operation leaves; none if it has no step. -/
def nextOf {σ : Type} : Out σ → Option σ
  | .next s => some s
  | .fault _ => none
  | .refused _ => none

/-- "every altered frame copy is rejected as Malformed or ChecksumMismatch" (R278). -/
def alterationDetected (maxPayload : Nat) (d : Bytes) : Bool :=
  match decodeFrame maxPayload d with
  | .malformed => true
  | .parsed _ _ ok => !ok

/-- The link after an operation of the block that leaves the channel's cursors alone. -/
def Link.exec (l : Link) (i : Instr) : Option Link :=
  (nextOf (Sys2Proof.Machine.exec i l.hw)).map (fun t => { l with hw := t })

/-- One move of the environment on the channel of R278; none if the channel does not do it or the operation has no step. -/
def Link.move (l : Link) : LinkMove → Option Link
  | .load =>
    match l.todo with
    | [] => none
    | c :: cs => Link.exec { l with todo := cs } (.sLoad c)
  | .frameCopy k =>
    match l.hw.snd.frames[k]? with
    | some f => if l.frameCursor ≤ k then Link.exec { l with frameCursor := k } (.rFrame f) else none
    | none => none
  | .frameAltered d => if alterationDetected l.hw.rcv.cfg.maxPayload.toNat d then l.exec (.rFrame d) else none
  | .ackCopy k =>
    match l.hw.rcv.acks[k]? with
    | some b => if l.ackCursor ≤ k then Link.exec { l with ackCursor := k } (.sAck [b]) else none
    | none => none
  | .ackAltered d => if d ≠ [l.hw.snd.nextSequence] then l.exec (.sAck d) else none
  | .sndTimeout => l.exec .sTimeout
  | .sndClosed => l.exec .sClosed
  | .sndCancel => l.exec .sCancel
  | .rcvTimeout => l.exec .rTimeout
  | .rcvClosed => l.exec .rClosed
  | .rcvStop => l.exec .rStop

/-- Moves one after the other. -/
def Link.run : List LinkMove → Link → Option Link
  | [], l => some l
  | m :: ms, l =>
    match l.move m with
    | some l' => Link.run ms l'
    | none => none

/-- Both ends reset with the given parameters, the chunks of `data` to be sent (R170, R260). -/
def Link.start (p q : Params) (data : Bytes) : Link where
  hw := State.resetWith p q
  todo := chunks p.maxPayload data
  frameCursor := 0
  ackCursor := 0

end Sys2Proof.Machine
end

