-- ==== Sys2Proof/Safety.lean ====
section
/-! DEFINITION. What the statements are about: the invariants of 10_state.md rules R28, R35 and R36, the agreement of the
two ends (70_reset_and_hazards.md R271), and which unit an instruction is for. -/

namespace Sys2Proof.Machine

/-- The configuration registers are those of legal parameters (R261). -/
def Cfg.legal (c : Cfg) : Bool :=
  decide (1 ≤ c.maxPayload.toNat) && decide (2 ≤ c.seqMod.toNat) && decide (c.seqMod.toNat ≤ 256)
    && decide (c.startSeq.toNat < c.seqMod.toNat)

/-- The pending frame is a whole frame with the sender's number and a right checksum (R27, R28(b)). -/
def Snd.pendingOk (u : Snd) : Bool :=
  decide (hdrLen ≤ u.pendLen) && decide (u.pendLen ≤ hdrLen + u.cfg.maxPayload.toNat) &&
  match u.pending with
  | none => false
  | some f =>
    match decodeFrame u.cfg.maxPayload.toNat f with
    | .malformed => false
    | .parsed seq _ ok => seq == u.nextSequence && ok

/-- The invariant of unit SND: R28(a) to (d), the ranges of S.retry_count (R26) and S.pend_len (R27) in every state, the
canonical form of S.pend_buf, and the count of confirmations that S.next_sequence stands for (R25, R164). -/
structure Snd.Inv (u : Snd) : Prop where
  cfg : u.cfg.legal = true
  seq : u.nextSequence.toNat < u.cfg.seqMod.toNat
  buf : u.pendBuf.wf = true
  retries : u.retryCount ≤ u.cfg.maxRetry + 1
  length : u.pendLen ≤ hdrLen + u.cfg.maxPayload.toNat
  idle : u.state = .idle → u.pendValid = false ∧ u.retryCount = 0 ∧ u.err = .noError
  wait : u.state = .wait → u.pendValid = true ∧ u.err = .noError ∧ u.retryCount ≤ u.cfg.maxRetry
  failed : u.state = .failed → u.err = .deliveryFailed ∨ u.err = .channelClosed ∨ u.err = .cancelled
  exhausted : u.err = .deliveryFailed → u.retryCount = u.cfg.maxRetry + 1 ∧ u.pendValid = true
  pending : u.pendValid = true → u.pendingOk = true
  noPending : u.pendValid = false → u.pendBuf = []
  count : u.nextSequence.toNat = (u.cfg.startSeq.toNat + u.confirmations) % u.cfg.seqMod.toNat

/-- The invariant of unit RCV: R35(a) to (e), the range of R.idle_count in every state (R34), and R31 for the state DONE. -/
structure Rcv.Inv (u : Rcv) : Prop where
  cfg : u.cfg.legal = true
  seq : u.expected.toNat < u.cfg.seqMod.toNat
  lastAcked : u.lastAcked.toNat = (u.expected.toNat + u.cfg.seqMod.toNat - 1) % u.cfg.seqMod.toNat
  idle : u.idleCount ≤ u.cfg.idleLimit
  run : u.state = .run → u.err = .noError ∧ (u.cfg.idleLimit = 0 ∧ u.idleCount = 0 ∨ u.idleCount < u.cfg.idleLimit)
  done : u.state = .done → u.err = .noError
  failed : u.state = .failed → u.err = .channelClosed
  count : u.expected.toNat = (u.cfg.startSeq.toNat + u.delivered.length) % u.cfg.seqMod.toNat

/-- The invariant of the block: both sequencers', and the canonical range of each checksum register (R36). -/
structure BlockInv (s : State) : Prop where
  snd : s.snd.Inv
  rcv : s.rcv.Inv
  ckSnd : s.ckSnd.toNat ≤ 254
  ckRcv : s.ckRcv.toNat ≤ 254

/-- The two ends agree on `MAX_PAYLOAD`, `SEQ_MOD` and `START_SEQ` (R271). -/
def paramsAgree (p q : Params) : Prop :=
  p.maxPayload = q.maxPayload ∧ p.seqMod = q.seqMod ∧ p.startSeq = q.startSeq

/-- The units an instruction may be for (30_encoding.md R95). -/
inductive UnitName where
  | ck | codec | snd | rcv
deriving DecidableEq, Repr

/-- The unit of an instruction. -/
def unitOf : Instr → UnitName
  | .ckClr _ => .ck
  | .ckAdd _ _ => .ck
  | .enc _ _ => .codec
  | .dec _ => .codec
  | .sLoad _ => .snd
  | .sAck _ => .snd
  | .sTimeout => .snd
  | .sClosed => .snd
  | .sCancel => .snd
  | .rFrame _ => .rcv
  | .rTimeout => .rcv
  | .rClosed => .rcv
  | .rStop => .rcv
  | .frame _ _ _ => .rcv
  | .ack _ => .snd

/-- The state without the labels of `classify` (R222), which are no register and drive no port. -/
def State.forgetLabels (s : State) : State :=
  { s with snd := { s.snd with classes := [] }, rcv := { s.rcv with classes := [] } }

/-- Two outcomes of a step that are the same at every port and register: labels of `classify` aside (R222). -/
def sameButLabels : Out State → Out State → Prop
  | .next s, .next t => s.forgetLabels = t.forgetLabels
  | .fault f, .fault g => f = g
  | .refused r, .refused q => r = q
  | _, _ => False

/-- An answer that does not confirm the pending frame: a timeout, or a datagram other than the one byte
`S.next_sequence` (R163, R172). -/
def Answer.wrongFor (seq : Byte) : Answer → Bool
  | .datagram d => d ≠ [seq]
  | .timeout => true
  | .closed => false
  | .cancel => false

/-- An answer of the Transport's `receive` other than Closed: a datagram or a timeout (R172). -/
def Answer.ofReceive : Answer → Bool
  | .datagram _ => true
  | .timeout => true
  | .closed => false
  | .cancel => false

end Sys2Proof.Machine
end

