-- ==== Sys2Proof/Certificates/Slice0/Obligations.lean ====
section
/-! DEFINITION. The statements for the provers. Each names the rule of spec/ it formalises; R<n> is a rule's number, V<n> and
P<n> are vectors and programs of 95_test_vectors.md. Where a statement gives the next state as `{ s with … }`, everything not
named there (every other register of every unit, every output list, what is presented) is the state's before. -/

open Sys2Proof Sys2Proof.Machine

/-! ## Encoding -/

/-- A few encodings of V1 to V5 and R100, written out in bytes, decode to the operation they stand for (a sanity statement). -/
def Obligations.WrittenOutBytesDecode : Prop :=
  decode (.op .sender) [0x00] = .instr (.ckClr .sender)
  ∧ decode (.op .receiver) [0x01, 0x4C] = .instr (.ckAdd .receiver 0x4C)
  ∧ decode (.op .sender) [0x10, 0x00, 0x48, 0x45] = .instr (.enc 0x00 [0x48, 0x45])
  ∧ decode (.op .receiver) [0x11, 0x00, 0x07, 0x00, 0x00] = .instr (.dec [0x00, 0x07, 0x00, 0x00])
  ∧ decode (.op .sender) [0x20, 0x48, 0x45, 0x4C, 0x4C, 0x4F] = .instr (.sLoad [0x48, 0x45, 0x4C, 0x4C, 0x4F])
  ∧ decode (.op .sender) [0x21, 0xFF] = .instr (.sAck [0xFF])
  ∧ decode (.op .receiver) [0x30] = .instr (.rFrame [])
  ∧ decode (.op .receiver) [0x33] = .instr .rStop
  ∧ decode (.link .receiver) [0x44, 0x02, 0x00, 0x01, 0x44] = .instr (.frame 0x44 0x02 [0x44])
  ∧ decode (.link .sender) [0x2A] = .instr (.ack 0x2A)

/-- Decoding the encoding of a well-formed instruction gives the instruction back, with every operand at every value (R90, R92, R94 to R96). -/
def Obligations.DecodeOfEncodeIsTheInstruction : Prop :=
  ∀ i : Instr, i.wellFormed = true → decode (encode i).1 (encode i).2 = .instr i

/-- Bytes that decode to an operation, or to a datagram in a wire format, are the encoding of it: no two byte strings at an
operation port stand for one instruction, and no bit is dropped. -/
def Obligations.EncodeOfDecodeIsTheBytes : Prop :=
  (∀ (u : Side) (bs : Bytes) (i : Instr), decode (.op u) bs = .instr i → i.wellFormed = true ∧ encode i = (.op u, bs))
  ∧ (∀ (d : Bytes) (c q : Byte) (p : Bytes), decode (.link .receiver) d = .instr (.frame c q p) →
      p.length < 65536 ∧ encode (.frame c q p) = (.link .receiver, d))
  ∧ (∀ (d : Bytes) (q : Byte), decode (.link .sender) d = .instr (.ack q) → encode (.ack q) = (.link .sender, d))

/-- R96: which operand lengths each of the thirteen codes takes, and what the operand is. -/
def Obligations.OperandFormsAreTheTables : Prop :=
  ∀ arg : Bytes,
    (∀ u, decode (.op u) (0x00 :: arg) = if arg.length = 0 then .instr (.ckClr u) else .rejected (.operandForm 0x00))
    ∧ decode (.op .sender) (0x22 :: arg) = (if arg.length = 0 then .instr .sTimeout else .rejected (.operandForm 0x22))
    ∧ decode (.op .sender) (0x23 :: arg) = (if arg.length = 0 then .instr .sClosed else .rejected (.operandForm 0x23))
    ∧ decode (.op .sender) (0x24 :: arg) = (if arg.length = 0 then .instr .sCancel else .rejected (.operandForm 0x24))
    ∧ decode (.op .receiver) (0x31 :: arg) = (if arg.length = 0 then .instr .rTimeout else .rejected (.operandForm 0x31))
    ∧ decode (.op .receiver) (0x32 :: arg) = (if arg.length = 0 then .instr .rClosed else .rejected (.operandForm 0x32))
    ∧ decode (.op .receiver) (0x33 :: arg) = (if arg.length = 0 then .instr .rStop else .rejected (.operandForm 0x33))
    ∧ (∀ u, decode (.op u) (0x01 :: arg)
        = if arg.length = 1 then .instr (.ckAdd u (arg.headD 0)) else .rejected (.operandForm 0x01))
    ∧ decode (.op .receiver) (0x11 :: arg) = .instr (.dec arg)
    ∧ decode (.op .sender) (0x20 :: arg) = .instr (.sLoad arg)
    ∧ decode (.op .sender) (0x21 :: arg) = .instr (.sAck arg)
    ∧ decode (.op .receiver) (0x30 :: arg) = .instr (.rFrame arg)
    ∧ decode (.op .sender) (0x10 :: arg)
        = (if 1 ≤ arg.length then .instr (.enc (arg.headD 0) arg.tail) else .rejected (.operandForm 0x10))

/-- R97: the 243 codes that are not in the table, and operands that do not fit the form, are not enabled: presented alone, they
leave the machine without a next state (how a missing step is rendered is notes/assumptions/3.md). -/
def Obligations.ReservedEncodingsAreNotEnabled : Prop :=
  (∀ (u : Side) (op : Byte) (arg : Bytes),
      op ∉ [(0x00 : Byte), 0x01, 0x10, 0x11, 0x20, 0x21, 0x22, 0x23, 0x24, 0x30, 0x31, 0x32, 0x33] →
      decode (.op u) (op :: arg) = .rejected (.reservedCode op))
  ∧ ((List.range 256).filter (fun n => toByte n ∉
      [(0x00 : Byte), 0x01, 0x10, 0x11, 0x20, 0x21, 0x22, 0x23, 0x24, 0x30, 0x31, 0x32, 0x33])).length = 243
  ∧ (∀ (u : Side) (op : Byte) (arg : Bytes), op ∈ [(0x00 : Byte), 0x22, 0x23, 0x24, 0x31, 0x32, 0x33] → arg.length ≠ 0 →
      ∃ e, decode (.op u) (op :: arg) = .rejected e)
  ∧ (∀ (u : Side) (arg : Bytes), arg.length ≠ 1 → ∃ e, decode (.op u) (0x01 :: arg) = .rejected e)
  ∧ (∀ u : Side, ∃ e, decode (.op u) [0x10] = .rejected e)
  ∧ (∀ (s : State) (u : Side) (bs : Bytes) (e : DecodeError), decode (.op u) bs = .rejected e →
      s.requests = [.op u bs] → step s = .fault (.rejected e))

/-- R20: an instance executes only the operations of units that stand in it. -/
def Obligations.InstancesHoldTheirUnits : Prop :=
  ∀ (u : Side) (bs : Bytes) (i : Instr), decode (.op u) bs = .instr i → i.side = u

/-! ## Steps -/

/-- A step runs the instruction that the first presented bytes decode to, with those bytes taken from what is presented, if the
instruction is enabled. That the first presented one is served is the model's choice: what is presented is a list, which the
surroundings fill in any order (notes/assumptions/2.md and 22.md; R235 fixes no order). -/
def Obligations.StepRunsTheDecodedInstruction : Prop :=
  ∀ (s : State) (p : Port) (bs : Bytes) (rs : List Request) (i : Instr),
    s.requests = requestOf p bs :: rs → decode p bs = .instr i →
    exec i (s.presenting rs) ≠ .fault .notEnabled →
    step s = exec i (s.presenting rs)

/-- Requests that are not enabled stay presented, in their order (R226, last sentences: such a request "is not taken"), bytes
that are no operation among them (R97). That the first enabled one of the others is served, in list order, is the model's
choice, and not R226's: notes/assumptions/2.md, 3.md and 22.md. -/
def Obligations.NotEnabledRequestsStayPresented : Prop :=
  (∀ (s t : State) (held rs : List Request) (r : Request),
    s.requests = held ++ r :: rs →
    (∀ h ∈ held, ∀ v : State, v.snd = s.snd → v.rcv = s.rcv →
      attempt h v = .fault .notEnabled ∨ ∃ e, attempt h v = .fault (.rejected e)) →
    attempt r (s.presenting (held ++ rs)) = .next t →
    step s = .next t ∧ t.requests = held ++ rs)
  ∧ (∀ (s t : State) (u : Side) (bs : Bytes) (e : DecodeError) (r : Request) (rs : List Request),
      decode (.op u) bs = .rejected e → s.requests = .op u bs :: r :: rs →
      attempt r (s.presenting (.op u bs :: rs)) = .next t → step s = .next t ∧ t.requests = .op u bs :: rs)

/-- R226: the complete list of operations that are not enabled. In every other case the operation has a next state, but for a
retransmission in WAIT of a pending frame whose bytes hold no value, which stops by name (no state that meets the invariant has
one). The wire formats are as R.FRAME and S.ACK. -/
def Obligations.NotEnabledIsExactlyTheList : Prop :=
  (∀ (i : Instr) (s : State), exec i s = .fault .notEnabled ↔
    ((∃ c, i = .sLoad c) ∧ s.snd.state ≠ .idle)
    ∨ (((∃ d, i = .sAck d) ∨ (∃ q, i = .ack q) ∨ i = .sTimeout) ∧ s.snd.state ≠ .wait)
    ∨ ((i = .sClosed ∨ i = .sCancel) ∧ s.snd.state = .failed)
    ∨ (((∃ d, i = .rFrame d) ∨ (∃ c q p, i = .frame c q p) ∨ i = .rTimeout ∨ i = .rClosed ∨ i = .rStop) ∧ s.rcv.state ≠ .run))
  ∧ (∀ (i : Instr) (s : State), (∃ t, exec i s = .next t) ∨ exec i s = .fault .notEnabled
    ∨ (exec i s = .fault .noValue ∧ s.snd.state = .wait ∧ memRead s.snd.pendBuf 0 s.snd.pendLen = none))

/-- R236 to R238: each result of a Transport call is presented as one operation, and a send that succeeded or timed out as none. -/
def Obligations.TransportResultsBecomeOperations : Prop :=
  ∀ (s : State) (rs : List Request),
    (∀ d, s.snd.state = .wait → s.requests = .received .sender (.bytes d) :: rs → step s = exec (.sAck d) (s.presenting rs))
    ∧ (s.snd.state = .wait → s.requests = .received .sender .timeout :: rs → step s = exec .sTimeout (s.presenting rs))
    ∧ (s.snd.state ≠ .failed → s.requests = .received .sender .closed :: rs → step s = exec .sClosed (s.presenting rs))
    ∧ (s.snd.state ≠ .failed → s.requests = .sent .sender .closed :: rs → step s = exec .sClosed (s.presenting rs))
    ∧ (∀ d, s.rcv.state = .run → s.requests = .received .receiver (.bytes d) :: rs →
        step s = exec (.rFrame d) (s.presenting rs))
    ∧ (s.rcv.state = .run → s.requests = .received .receiver .timeout :: rs → step s = exec .rTimeout (s.presenting rs))
    ∧ (s.rcv.state = .run → s.requests = .received .receiver .closed :: rs → step s = exec .rClosed (s.presenting rs))
    ∧ (s.rcv.state = .run → s.requests = .sent .receiver .closed :: rs → step s = exec .rClosed (s.presenting rs))
    ∧ (∀ (u : Side) (r : SendResult), r ≠ .closed → s.requests = .sent u r :: rs → step s = .next (s.presenting rs))

/-! ## Reset -/

/-- R260: the reset of a unit loads its configuration registers with the parameters supplied, sets every other register of the
unit to the value of R45, emits nothing (what the unit's output list then holds is the beginning of what it held, if anything)
and touches no other unit. What is presented besides the reset stays presented (`requests := rs`), old Transport results among
it: that clause is the model's choice, notes/assumptions/28.md, and not R260's. -/
def Obligations.ResetSetsTheUnitsRegisters : Prop :=
  (∀ (s : State) (p : Params) (rs : List Request), 1 ≤ p.maxPayload → p.maxPayload ≤ 65535 → 2 ≤ p.seqMod → p.seqMod ≤ 256 →
    p.startSeq < p.seqMod → s.requests = .reset (.snd p) :: rs →
    ∃ u : Snd, step s = .next { s with snd := u, requests := rs }
      ∧ u.cfg.maxPayload.toNat = p.maxPayload ∧ u.cfg.seqMod.toNat = p.seqMod ∧ u.cfg.startSeq.toNat = p.startSeq
      ∧ u.cfg.maxRetry = p.maxRetry ∧ u.cfg.idleLimit = p.idleLimit
      ∧ u.state = .idle ∧ u.err = .noError ∧ u.nextSequence.toNat = p.startSeq ∧ u.retryCount = 0 ∧ u.pendValid = false
      ∧ u.pendLen = 0 ∧ (∀ a, u.pendBuf.read a = none) ∧ u.out <+: s.snd.out)
  ∧ (∀ (s : State) (p : Params) (rs : List Request), 1 ≤ p.maxPayload → p.maxPayload ≤ 65535 → 2 ≤ p.seqMod → p.seqMod ≤ 256 →
    p.startSeq < p.seqMod → s.requests = .reset (.rcv p) :: rs →
    ∃ u : Rcv, step s = .next { s with rcv := u, requests := rs }
      ∧ u.cfg.maxPayload.toNat = p.maxPayload ∧ u.cfg.seqMod.toNat = p.seqMod ∧ u.cfg.startSeq.toNat = p.startSeq
      ∧ u.cfg.maxRetry = p.maxRetry ∧ u.cfg.idleLimit = p.idleLimit
      ∧ u.state = .run ∧ u.err = .noError ∧ u.expected.toNat = p.startSeq
      ∧ u.lastAcked.toNat = (p.startSeq + p.seqMod - 1) % p.seqMod ∧ u.idleCount = 0 ∧ u.out <+: s.rcv.out)
  ∧ (∀ (s : State) (rs : List Request), s.requests = .reset (.ck .sender) :: rs →
      step s = .next { s with ckSnd := 0, requests := rs })
  ∧ (∀ (s : State) (rs : List Request), s.requests = .reset (.ck .receiver) :: rs →
      step s = .next { s with ckRcv := 0, requests := rs })

/-- R261: a reset with parameters outside the legal ranges is refused, and only such a one. -/
def Obligations.IllegalConfigurationIsRefused : Prop :=
  ∀ (s : State) (p : Params) (rs : List Request), s.requests = .reset (.snd p) :: rs ∨ s.requests = .reset (.rcv p) :: rs →
    (step s = .refused .illegalConfiguration ↔
      ¬ (1 ≤ p.maxPayload ∧ p.maxPayload ≤ 65535 ∧ 2 ≤ p.seqMod ∧ p.seqMod ≤ 256 ∧ p.startSeq < p.seqMod))

/-- The block reset with any legal parameters meets the invariant of R28, R35 and R36. -/
def Obligations.ResetWithLegalParametersMeetsTheInvariant : Prop :=
  ∀ p q : Params, paramsLegal p = true → paramsLegal q = true → BlockInv (State.resetWith p q)

/-- The machine's reset state meets the invariant. -/
def Obligations.ResetStateMeetsTheInvariant : Prop := BlockInv State.reset

/-! ## Invariants -/

/-- R28, R35 and R36 are kept by every step: of an operation of any unit, a Transport result, a reset, or a wait. With them
the ranges of the counters in every state: S.retry_count up to MAX_RETRY + 1 (R26), S.pend_len up to MAX_FRAME (R27),
R.idle_count up to IDLE_LIMIT (R34). -/
def Obligations.StepKeepsTheInvariant : Prop :=
  ∀ s t : State, BlockInv s → step s = .next t → BlockInv t

/-- In a state that meets the invariant no step reads a byte of S.pend_buf that holds no value (R27, U3). -/
def Obligations.NoStepReadsAByteWithoutValue : Prop :=
  ∀ s : State, BlockInv s → step s ≠ .fault .noValue

/-- R24, R31, R39, as the host reads the status registers: no error code outside FAILED, and in FAILED a terminal one. -/
def Obligations.StatusRegistersShowTerminalErrorsOnly : Prop :=
  ∀ s t : State, BlockInv s → step s = .next t →
    (t.sndStatus = (0, 0) ∨ t.sndStatus = (1, 0) ∨ t.sndStatus = (2, 5) ∨ t.sndStatus = (2, 6) ∨ t.sndStatus = (2, 8))
    ∧ (t.rcvStatus = (0, 0) ∨ t.rcvStatus = (1, 0) ∨ t.rcvStatus = (2, 6))

/-! ## Unit CK -/

/-- R123: `CK.CLR` clears the running checksum of its instance and changes nothing else; its encoding is `00`. -/
def Obligations.CkClrStartsANewChecksum : Prop :=
  ∀ (s : State),
    exec (.ckClr .sender) s = .next { s with ckSnd := 0 }
    ∧ exec (.ckClr .receiver) s = .next { s with ckRcv := 0 }
    ∧ (∀ u, decode (.op u) [0x00] = .instr (.ckClr u))
    ∧ (∀ u t, exec (.ckClr u) s = .next t → exec (.ckClr u) t = .next t)

/-- R124: `CK.ADD b` adds one byte modulo 255 with one conditional subtraction, changes nothing else, and keeps the register
below 255; 0x00 and 0xFF leave it as it is; its encoding is `01 b`. -/
def Obligations.CkAddAddsOneByteModulo255 : Prop :=
  ∀ (s : State) (u : Side) (b : Byte),
    (∃ v : Byte, exec (.ckAdd u b) s = .next (s.putCk u v)
      ∧ v.toNat = if 255 ≤ (s.ck u).toNat + b.toNat then (s.ck u).toNat + b.toNat - 255 else (s.ck u).toNat + b.toNat)
    ∧ ((s.ck u).toNat ≤ 254 → ∃ v : Byte, exec (.ckAdd u b) s = .next (s.putCk u v)
      ∧ v.toNat = ((s.ck u).toNat + b.toNat) % 255 ∧ v.toNat ≤ 254)
    ∧ ((s.ck u).toNat ≤ 254 → b = 0x00 ∨ b = 0xFF → exec (.ckAdd u b) s = .next s)
    ∧ decode (.op u) [0x01, b] = .instr (.ckAdd u b)

/-- R125: `CSUM p` leaves the checksum of R120 of the whole string in the instance's register, and changes nothing else. -/
def Obligations.CsumLeavesTheChecksumOfTheString : Prop :=
  ∀ (s : State) (u : Side) (p : Bytes),
    ∃ v : Byte, execAll (csumOps u p) s = .next (s.putCk u v) ∧ v.toNat = (p.map BitVec.toNat).sum % 255

/-- R122(a), (c), (d), (e): concatenation, any order, 0x00 and 0xFF alike, and which single-byte changes are seen. -/
def Obligations.ChecksumLaws : Prop :=
  (∀ a b : Bytes, csum255 (a ++ b) = (csum255 a + csum255 b) % 255)
  ∧ (∀ a b : Bytes, a.Perm b → csum255 a = csum255 b)
  ∧ (∀ (a b : Bytes) (x : Byte), x = 0x00 ∨ x = 0xFF → csum255 (a ++ x :: b) = csum255 (a ++ b))
  ∧ (∀ (a b : Bytes) (x y : Byte), csum255 (a ++ x :: b) = csum255 (a ++ y :: b) ↔
      x = y ∨ (x = 0x00 ∧ y = 0xFF) ∨ (x = 0xFF ∧ y = 0x00))

/-! ## Unit CODEC -/

/-- R141: `ENC s, p` returns the frame of R90, or PayloadTooLarge, and changes no register; a frame has length 4 + L, and its
checksum byte is never 0xFF; its encoding is `10 s p`. -/
def Obligations.EncReturnsTheFrame : Prop :=
  ∀ (s : State) (q : Byte) (p : Bytes),
    (s.snd.cfg.maxPayload.toNat < p.length →
      exec (.enc q p) s = .next { s with encOut := s.encOut ++ [.payloadTooLarge] })
    ∧ (p.length ≤ s.snd.cfg.maxPayload.toNat →
      ∃ c hi lo : Byte, exec (.enc q p) s = .next { s with encOut := s.encOut ++ [.frame (c :: q :: hi :: lo :: p)] }
        ∧ c.toNat = (p.map BitVec.toNat).sum % 255 ∧ c ≠ 0xFF
        ∧ hi.toNat = p.length / 256 ∧ lo.toNat = p.length % 256)
    ∧ decode (.op .sender) (0x10 :: q :: p) = .instr (.enc q p)

/-- R143 to R145: `DEC d` returns Malformed in exactly the three cases, and otherwise the sequence byte, the payload and
whether the recomputed checksum equals the stored byte; it changes no register; its encoding is `11 d`. -/
def Obligations.DecParsesAndValidates : Prop :=
  ∀ s : State,
    (∀ d : Bytes, d.length < 4 → exec (.dec d) s = .next { s with decOut := s.decOut ++ [.malformed] })
    ∧ (∀ (c q hi lo : Byte) (p : Bytes),
        s.rcv.cfg.maxPayload.toNat < 256 * hi.toNat + lo.toNat ∨ p.length ≠ 256 * hi.toNat + lo.toNat →
        exec (.dec (c :: q :: hi :: lo :: p)) s = .next { s with decOut := s.decOut ++ [.malformed] })
    ∧ (∀ (c q hi lo : Byte) (p : Bytes),
        256 * hi.toNat + lo.toNat ≤ s.rcv.cfg.maxPayload.toNat → p.length = 256 * hi.toNat + lo.toNat →
        exec (.dec (c :: q :: hi :: lo :: p)) s
          = .next { s with decOut := s.decOut ++ [.parsed q p (decide ((p.map BitVec.toNat).sum % 255 = c.toNat))] })
    ∧ (∀ d : Bytes, decode (.op .receiver) (0x11 :: d) = .instr (.dec d))

/-- R146: what ENC makes DEC takes apart again; and a datagram that parses is the encoding of its parts exactly when its
checksum is right, and differs from it in byte 0 only otherwise. -/
def Obligations.CodecRoundTrip : Prop :=
  ∀ m : Nat, m ≤ 65535 →
    (∀ (q : Byte) (p f : Bytes), encodeFrame m q p = .frame f → decodeFrame m f = .parsed q p true)
    ∧ (∀ (q : Byte) (p : Bytes), p.length ≤ m ↔ ∃ f, encodeFrame m q p = .frame f)
    ∧ (∀ (d p : Bytes) (q : Byte) (ok : Bool), decodeFrame m d = .parsed q p ok →
        ∃ c : Byte, encodeFrame m q p = .frame (c :: d.tail) ∧ (ok = true ↔ d = c :: d.tail))

/-- R98(b), R279: a stored checksum 0xFF is never valid, and the sequence byte is covered by nothing: a frame whose sequence
byte was altered decodes with the altered number and a right checksum. -/
def Obligations.HeaderBytesAndTheChecksum : Prop :=
  ∀ m : Nat, m ≤ 65535 →
    (∀ (d p : Bytes) (q : Byte) (ok : Bool), decodeFrame m (0xFF :: d) = .parsed q p ok → ok = false)
    ∧ (∀ (c q q' hi lo : Byte) (p : Bytes), encodeFrame m q p = .frame (c :: q :: hi :: lo :: p) →
        decodeFrame m (c :: q' :: hi :: lo :: p) = .parsed q' p true)

/-! ## Unit SND -/

/-- R162: `S.LOAD c`. In IDLE a chunk that fits is encoded with S.next_sequence, stored from offset 0 of S.pend_buf, recorded
and transmitted, and no other byte of the buffer changes; a chunk that does not fit is reported and nothing else changes; in
WAIT and FAILED it is not enabled; its encoding is `20 c`. -/
def Obligations.SLoadStoresAndTransmits : Prop :=
  ∀ (s : State) (c : Bytes),
    (s.snd.state = .idle → c.length ≤ s.snd.cfg.maxPayload.toNat →
      ∃ (k hi lo : Byte) (buf : Memory) (f : Bytes), f = k :: s.snd.nextSequence :: hi :: lo :: c
        ∧ k.toNat = (c.map BitVec.toNat).sum % 255 ∧ hi.toNat = c.length / 256 ∧ lo.toNat = c.length % 256
        ∧ exec (.sLoad c) s = .next { s with snd := { s.snd with pendBuf := buf, pendLen := 4 + c.length, pendValid := true, retryCount := 0, state := .wait, out := s.snd.out ++ [.tx f] } }
        ∧ (∀ a, a < f.length → buf.read a = f[a]?) ∧ (∀ a, f.length ≤ a → buf.read a = s.snd.pendBuf.read a))
    ∧ (s.snd.state = .idle → s.snd.cfg.maxPayload.toNat < c.length →
      exec (.sLoad c) s = .next { s with snd := { s.snd with out := s.snd.out ++ [.loadError .payloadTooLarge] } })
    ∧ (s.snd.state ≠ .idle → exec (.sLoad c) s = .fault .notEnabled)
    ∧ decode (.op .sender) (0x20 :: c) = .instr (.sLoad c)

/-- R163, R164: `S.ACK d`. In WAIT exactly the one-byte datagram equal to S.next_sequence confirms: the retry count is
cleared, the sequence number advanced modulo SEQ_MOD, the pending frame gone (its bytes hold no value, notes/assumptions/12.md;
S.pend_len stays, 13.md), `Confirmed` emitted and nothing else. Any other datagram is a retry: the same frame again while the
bound is not exceeded, else DeliveryFailed without a transmission. Outside WAIT it is not enabled; its encoding is `21 d`. -/
def Obligations.SAckConfirmsOrRetries : Prop :=
  ∀ (s : State) (d : Bytes),
    (s.snd.state = .wait → d = [s.snd.nextSequence] →
      exec (.sAck d) s = .next { s with snd := { s.snd with retryCount := 0, nextSequence := toByte ((s.snd.nextSequence.toNat + 1) % s.snd.cfg.seqMod.toNat), pendValid := false, pendBuf := [], state := .idle, out := s.snd.out ++ [.confirmed] } })
    ∧ (∀ f : Bytes, s.snd.state = .wait → d ≠ [s.snd.nextSequence] → s.snd.retryCount + 1 ≤ s.snd.cfg.maxRetry →
      memRead s.snd.pendBuf 0 s.snd.pendLen = some f →
      exec (.sAck d) s = .next { s with snd := { s.snd with retryCount := s.snd.retryCount + 1, out := s.snd.out ++ [.tx f] } })
    ∧ (s.snd.state = .wait → d ≠ [s.snd.nextSequence] → s.snd.cfg.maxRetry < s.snd.retryCount + 1 →
      exec (.sAck d) s = .next { s with snd := { s.snd with retryCount := s.snd.retryCount + 1, state := .failed, err := .deliveryFailed } })
    ∧ (s.snd.state ≠ .wait → exec (.sAck d) s = .fault .notEnabled)
    ∧ decode (.op .sender) (0x21 :: d) = .instr (.sAck d)

/-- R166: `S.TIMEOUT` in WAIT is classified ChannelTimeout and is a retry (R165): the identical frame again, or DeliveryFailed
without a transmission when the bound is exceeded. Outside WAIT it is not enabled; its encoding is `22`. -/
def Obligations.STimeoutRetransmitsOrFails : Prop :=
  ∀ s : State,
    (∀ f : Bytes, s.snd.state = .wait → s.snd.retryCount + 1 ≤ s.snd.cfg.maxRetry →
      memRead s.snd.pendBuf 0 s.snd.pendLen = some f →
      exec .sTimeout s = .next { s with snd := { s.snd with classes := s.snd.classes ++ [.channelTimeout], retryCount := s.snd.retryCount + 1, out := s.snd.out ++ [.tx f] } })
    ∧ (s.snd.state = .wait → s.snd.cfg.maxRetry < s.snd.retryCount + 1 →
      exec .sTimeout s = .next { s with snd := { s.snd with classes := s.snd.classes ++ [.channelTimeout], retryCount := s.snd.retryCount + 1, state := .failed, err := .deliveryFailed } })
    ∧ (s.snd.state ≠ .wait → exec .sTimeout s = .fault .notEnabled)
    ∧ decode (.op .sender) [0x22] = .instr .sTimeout

/-- R167, R168, R228: `S.CLOSED` and `S.CANCEL` in IDLE and WAIT enter FAILED with their code and change nothing else: no
transmission, no retry counted, a pending frame stays recorded. In FAILED they are not enabled; their encodings are `23`, `24`. -/
def Obligations.SClosedAndSCancelEnterFailed : Prop :=
  ∀ s : State,
    (s.snd.state = .idle ∨ s.snd.state = .wait →
      exec .sClosed s = .next { s with snd := { s.snd with state := .failed, err := .channelClosed } }
      ∧ exec .sCancel s = .next { s with snd := { s.snd with state := .failed, err := .cancelled } })
    ∧ (s.snd.state = .failed → exec .sClosed s = .fault .notEnabled ∧ exec .sCancel s = .fault .notEnabled)
    ∧ decode (.op .sender) [0x23] = .instr .sClosed ∧ decode (.op .sender) [0x24] = .instr .sCancel
    ∧ ErrorCode.code .channelClosed = 6 ∧ ErrorCode.code .cancelled = 8 ∧ SndState.code .failed = 2

/-- R165: a non-matching `S.ACK` and `S.TIMEOUT` are counted alike, against the same bound, and in neither branch are
S.next_sequence, S.pend_valid, S.pend_len or any byte of S.pend_buf changed. -/
def Obligations.RetryKeepsThePendingFrame : Prop :=
  ∀ (s t : State) (i : Instr), (i = .sTimeout ∨ ∃ d, d ≠ [s.snd.nextSequence] ∧ i = .sAck d) → exec i s = .next t →
    t.snd.retryCount = s.snd.retryCount + 1 ∧ t.snd.nextSequence = s.snd.nextSequence ∧ t.snd.pendValid = s.snd.pendValid
    ∧ t.snd.pendLen = s.snd.pendLen ∧ (∀ a, t.snd.pendBuf.read a = s.snd.pendBuf.read a)
    ∧ ((t.snd.state = .wait ∧ t.snd.err = s.snd.err ∧ t.snd.retryCount ≤ s.snd.cfg.maxRetry
          ∧ ∃ f, memRead s.snd.pendBuf 0 s.snd.pendLen = some f ∧ t.snd.out = s.snd.out ++ [.tx f])
        ∨ (t.snd.state = .failed ∧ t.snd.err = .deliveryFailed ∧ s.snd.cfg.maxRetry < t.snd.retryCount
          ∧ t.snd.out = s.snd.out))

/-- R27, R75: while a frame is pending a step leaves it as it is, its length and its bytes, unless the step confirms it or is
the reset of unit SND with parameters that were presented. -/
def Obligations.PendingFrameIsNeverModified : Prop :=
  ∀ s t : State, BlockInv s → s.snd.pendValid = true → step s = .next t →
    (t.snd.pendValid = true ∧ t.snd.pendLen = s.snd.pendLen ∧ t.snd.nextSequence = s.snd.nextSequence
      ∧ ∀ a, t.snd.pendBuf.read a = s.snd.pendBuf.read a)
    ∨ (t.snd.pendValid = false ∧ t.snd.out = s.snd.out ++ [.confirmed])
    ∨ (∃ p, Request.reset (.snd p) ∈ s.requests ∧ t.snd = Snd.reset p)

/-- R161: the transitions of S.state that an operation of unit SND makes, and with which outputs; no other is possible. -/
def Obligations.SenderTransitionTable : Prop :=
  ∀ (s t : State) (i : Instr), unitOf i = .snd → exec i s = .next t →
    (s.snd.state = .idle ∧ t.snd.state = .wait ∧ (∃ c, i = .sLoad c ∧ c.length ≤ s.snd.cfg.maxPayload.toNat)
        ∧ ∃ f, t.snd.out = s.snd.out ++ [.tx f])
    ∨ (s.snd.state = .idle ∧ t.snd = { s.snd with out := s.snd.out ++ [.loadError .payloadTooLarge] }
        ∧ ∃ c, i = .sLoad c ∧ s.snd.cfg.maxPayload.toNat < c.length)
    ∨ (s.snd.state = .wait ∧ t.snd.state = .idle ∧ (i = .ack s.snd.nextSequence ∨ i = .sAck [s.snd.nextSequence])
        ∧ t.snd.out = s.snd.out ++ [.confirmed])
    ∨ (s.snd.state = .wait ∧ t.snd.state = .wait ∧ s.snd.retryCount < s.snd.cfg.maxRetry
        ∧ (i = .sTimeout ∨ (∃ q, q ≠ s.snd.nextSequence ∧ i = .ack q) ∨ (∃ d, d ≠ [s.snd.nextSequence] ∧ i = .sAck d))
        ∧ ∃ f, t.snd.out = s.snd.out ++ [.tx f])
    ∨ (s.snd.state = .wait ∧ t.snd.state = .failed ∧ t.snd.err = .deliveryFailed ∧ s.snd.cfg.maxRetry ≤ s.snd.retryCount
        ∧ (i = .sTimeout ∨ (∃ q, q ≠ s.snd.nextSequence ∧ i = .ack q) ∨ (∃ d, d ≠ [s.snd.nextSequence] ∧ i = .sAck d))
        ∧ t.snd.out = s.snd.out)
    ∨ (s.snd.state ≠ .failed ∧ t.snd = { s.snd with state := .failed, err := .channelClosed } ∧ i = .sClosed)
    ∨ (s.snd.state ≠ .failed ∧ t.snd = { s.snd with state := .failed, err := .cancelled } ∧ i = .sCancel)

/-- R172: from WAIT, any MAX_RETRY + 1 - n answers that do not match (n being the retries already counted) end in FAILED with
DeliveryFailed after exactly MAX_RETRY - n retransmissions of the identical frame; and no sequence of datagrams and timeouts
keeps the unit in WAIT for more than MAX_RETRY - n answers. -/
def Obligations.BoundedRetryTermination : Prop :=
  ∀ (s : State) (f : Bytes), s.snd.state = .wait → s.snd.retryCount ≤ s.snd.cfg.maxRetry →
    memRead s.snd.pendBuf 0 s.snd.pendLen = some f →
    (∀ as : List Answer, (∀ a ∈ as, a.wrongFor s.snd.nextSequence = true) →
      as.length = s.snd.cfg.maxRetry + 1 - s.snd.retryCount →
      ∃ t, execAll (as.map Answer.instr) s = .next t ∧ t.snd.state = .failed ∧ t.snd.err = .deliveryFailed
        ∧ t.snd.retryCount = s.snd.cfg.maxRetry + 1
        ∧ t.snd.frames = s.snd.frames ++ List.replicate (s.snd.cfg.maxRetry - s.snd.retryCount) f)
    ∧ (∀ (as : List Answer) (t : State), (∀ a ∈ as, a.ofReceive = true) →
      execAll (as.map Answer.instr) s = .next t → t.snd.state = .wait → as.length ≤ s.snd.cfg.maxRetry - s.snd.retryCount)

/-! ## CHUNKS and SEND -/

/-- R170: the chunks of a byte string: how many, which bytes each holds, none empty, and their concatenation is the string. -/
def Obligations.ChunksSplitInOrder : Prop :=
  ∀ (m : Nat) (data : Bytes), 1 ≤ m →
    (chunks m data).length = (data.length + m - 1) / m
    ∧ (∀ i c, (chunks m data)[i]? = some c → c = (data.drop (i * m)).take m ∧ 1 ≤ c.length ∧ c.length ≤ m
        ∧ (i + 1 < (chunks m data).length → c.length = m)
        ∧ (i + 1 = (chunks m data).length → c.length = data.length - i * m))
    ∧ (chunks m data).flatten = data

/-- R171: a `SEND` that returns Ok leaves the sender IDLE, has had every chunk confirmed, and has advanced S.next_sequence by
the number of chunks; one that returns an error leaves it FAILED with that error, one of the three terminal ones; and CHUNKS
never makes a chunk that S.LOAD reports. Of empty data nothing is presented. -/
def Obligations.SendReturnsOkOrATerminalError : Prop :=
  ∀ (data : Bytes) (s : State) (as : List Answer), s.snd.Inv → s.snd.state = .idle →
    (∀ t rest, send data s as = .ok t rest →
      t.snd.state = .idle
      ∧ t.snd.nextSequence.toNat
          = (s.snd.nextSequence.toNat + (chunks s.snd.cfg.maxPayload.toNat data).length) % s.snd.cfg.seqMod.toNat
      ∧ t.snd.confirmations = s.snd.confirmations + (chunks s.snd.cfg.maxPayload.toNat data).length
      ∧ t.rcv = s.rcv)
    ∧ (∀ e t rest, send data s as = .err e t rest → t.snd.state = .failed ∧ t.snd.err = e
      ∧ (e = .deliveryFailed ∨ e = .channelClosed ∨ e = .cancelled))
    ∧ (∀ t, send data s as ≠ .loadError t) ∧ (∀ f, send data s as ≠ .stopped f) ∧ (∀ r, send data s as ≠ .refused r)
    ∧ send [] s as = .ok s as

/-! ## Unit RCV -/

/-- R192 to R195: `R.FRAME d` in RUN of a datagram that is malformed, or whose checksum is wrong, or whose number is not the
expected one: the last acknowledgment again, the idle count cleared, the class recorded, nothing delivered and no other
register changed. The class is the first in the order malformed, checksum, sequence. (That the class is recorded, in `classes`,
is the model's choice: notes/assumptions/9.md.) -/
def Obligations.RFrameRejectionsReacknowledge : Prop :=
  ∀ (s : State), s.rcv.state = .run →
    (∀ d : Bytes, decodeFrame s.rcv.cfg.maxPayload.toNat d = .malformed →
      exec (.rFrame d) s = .next { s with rcv := { s.rcv with idleCount := 0, classes := s.rcv.classes ++ [.malformed], out := s.rcv.out ++ [.ackTx s.rcv.lastAcked] } })
    ∧ (∀ (d p : Bytes) (q : Byte), decodeFrame s.rcv.cfg.maxPayload.toNat d = .parsed q p false →
      exec (.rFrame d) s = .next { s with rcv := { s.rcv with idleCount := 0, classes := s.rcv.classes ++ [.checksumMismatch], out := s.rcv.out ++ [.ackTx s.rcv.lastAcked] } })
    ∧ (∀ (d p : Bytes) (q : Byte), decodeFrame s.rcv.cfg.maxPayload.toNat d = .parsed q p true → q ≠ s.rcv.expected →
      exec (.rFrame d) s = .next { s with rcv := { s.rcv with idleCount := 0, classes := s.rcv.classes ++ [.sequenceMismatch], out := s.rcv.out ++ [.ackTx s.rcv.lastAcked] } })

/-- R196: `R.FRAME d` in RUN of the frame expected, with its checksum right: the payload is delivered, then its number
acknowledged, both sequence registers advance, the idle count is cleared, and nothing else changes. -/
def Obligations.RFrameAcceptsTheExpectedFrame : Prop :=
  ∀ (s : State) (c hi lo : Byte) (p : Bytes), s.rcv.state = .run →
    p.length ≤ s.rcv.cfg.maxPayload.toNat → hi.toNat = p.length / 256 → lo.toNat = p.length % 256 →
    c.toNat = (p.map BitVec.toNat).sum % 255 →
    exec (.rFrame (c :: s.rcv.expected :: hi :: lo :: p)) s = .next { s with rcv := { s.rcv with idleCount := 0, lastAcked := s.rcv.expected, expected := toByte ((s.rcv.expected.toNat + 1) % s.rcv.cfg.seqMod.toNat), out := s.rcv.out ++ [.sink p, .ackTx s.rcv.expected] } }

/-- R192: outside RUN `R.FRAME` is not enabled; in RUN it always has a step, which emits exactly one acknowledgment, as the last
event, and a delivery before it exactly when the frame is accepted; its encoding is `30 d`. -/
def Obligations.RFrameAnswersEveryDatagramOnce : Prop :=
  ∀ (s : State) (d : Bytes),
    (s.rcv.state ≠ .run → exec (.rFrame d) s = .fault .notEnabled)
    ∧ (s.rcv.state = .run → ∃ t, exec (.rFrame d) s = .next t ∧ t.rcv.state = .run ∧ t.rcv.err = s.rcv.err
        ∧ t.rcv.idleCount = 0 ∧ t.rcv.cfg = s.rcv.cfg ∧ t.snd = s.snd
        ∧ ((t.rcv.out = s.rcv.out ++ [.ackTx s.rcv.lastAcked] ∧ t.rcv.expected = s.rcv.expected
              ∧ t.rcv.lastAcked = s.rcv.lastAcked
              ∧ ¬ ∃ p, decodeFrame s.rcv.cfg.maxPayload.toNat d = .parsed s.rcv.expected p true)
          ∨ ∃ p, decodeFrame s.rcv.cfg.maxPayload.toNat d = .parsed s.rcv.expected p true
              ∧ t.rcv.out = s.rcv.out ++ [.sink p, .ackTx s.rcv.expected] ∧ t.rcv.lastAcked = s.rcv.expected))
    ∧ decode (.op .receiver) (0x30 :: d) = .instr (.rFrame d)

/-- R198: `R.TIMEOUT`. With IDLE_LIMIT = 0 nothing changes but the label ChannelTimeout; otherwise the idle count goes up by
one, and the run ends in DONE when it reaches the limit. Nothing is emitted. Outside RUN it is not enabled; encoding `31`. -/
def Obligations.RTimeoutCountsTowardsTheIdleLimit : Prop :=
  ∀ s : State,
    (s.rcv.state = .run → s.rcv.cfg.idleLimit = 0 →
      exec .rTimeout s = .next { s with rcv := { s.rcv with classes := s.rcv.classes ++ [.channelTimeout] } })
    ∧ (s.rcv.state = .run → 0 < s.rcv.cfg.idleLimit → s.rcv.idleCount + 1 ≠ s.rcv.cfg.idleLimit →
      exec .rTimeout s = .next { s with rcv := { s.rcv with classes := s.rcv.classes ++ [.channelTimeout], idleCount := s.rcv.idleCount + 1 } })
    ∧ (s.rcv.state = .run → 0 < s.rcv.cfg.idleLimit → s.rcv.idleCount + 1 = s.rcv.cfg.idleLimit →
      exec .rTimeout s = .next { s with rcv := { s.rcv with classes := s.rcv.classes ++ [.channelTimeout], idleCount := s.rcv.idleCount + 1, state := .done } })
    ∧ (s.rcv.state ≠ .run → exec .rTimeout s = .fault .notEnabled)
    ∧ decode (.op .receiver) [0x31] = .instr .rTimeout

/-- R199, R200: `R.CLOSED` in RUN enters FAILED with ChannelClosed, `R.STOP` enters DONE without an error; nothing is emitted
and nothing else changes. Outside RUN they are not enabled; encodings `32`, `33`. -/
def Obligations.RClosedFailsAndRStopEnds : Prop :=
  ∀ s : State,
    (s.rcv.state = .run →
      exec .rClosed s = .next { s with rcv := { s.rcv with state := .failed, err := .channelClosed } }
      ∧ exec .rStop s = .next { s with rcv := { s.rcv with state := .done } })
    ∧ (s.rcv.state ≠ .run → exec .rClosed s = .fault .notEnabled ∧ exec .rStop s = .fault .notEnabled)
    ∧ decode (.op .receiver) [0x32] = .instr .rClosed ∧ decode (.op .receiver) [0x33] = .instr .rStop
    ∧ ErrorCode.code .channelClosed = 6 ∧ RcvState.code .failed = 2 ∧ RcvState.code .done = 1

/-- R191, R193 to R200: the transitions of R.state, with all that each changes in the unit; no other is possible. An operation
of unit RCV has a step in RUN only. A frame with a right checksum and the expected number, and nothing else, is delivered and
moves the sequence registers; any other datagram is answered by the last acknowledgment; R.TIMEOUT counts towards the idle
limit and ends the run in DONE exactly when it reaches it; R.CLOSED enters FAILED and R.STOP enters DONE. -/
def Obligations.ReceiverTransitionTable : Prop :=
  ∀ (s t : State) (i : Instr), unitOf i = .rcv → exec i s = .next t →
    s.rcv.state = .run
    ∧ ((∃ d p, (i = .rFrame d ∨ ∃ c q b, i = .frame c q b ∧ d = assemble c q b)
          ∧ decodeFrame s.rcv.cfg.maxPayload.toNat d = .parsed s.rcv.expected p true
          ∧ t.rcv = { s.rcv with idleCount := 0, lastAcked := s.rcv.expected, expected := toByte ((s.rcv.expected.toNat + 1) % s.rcv.cfg.seqMod.toNat), out := s.rcv.out ++ [.sink p, .ackTx s.rcv.expected] })
      ∨ (∃ d e, (i = .rFrame d ∨ ∃ c q b, i = .frame c q b ∧ d = assemble c q b)
          ∧ (∀ p, decodeFrame s.rcv.cfg.maxPayload.toNat d ≠ .parsed s.rcv.expected p true)
          ∧ (e = .malformed ∨ e = .checksumMismatch ∨ e = .sequenceMismatch)
          ∧ t.rcv = { s.rcv with idleCount := 0, classes := s.rcv.classes ++ [e], out := s.rcv.out ++ [.ackTx s.rcv.lastAcked] })
      ∨ (i = .rTimeout ∧ s.rcv.cfg.idleLimit = 0
          ∧ t.rcv = { s.rcv with classes := s.rcv.classes ++ [.channelTimeout] })
      ∨ (i = .rTimeout ∧ 0 < s.rcv.cfg.idleLimit ∧ s.rcv.idleCount + 1 ≠ s.rcv.cfg.idleLimit
          ∧ t.rcv = { s.rcv with classes := s.rcv.classes ++ [.channelTimeout], idleCount := s.rcv.idleCount + 1 })
      ∨ (i = .rTimeout ∧ 0 < s.rcv.cfg.idleLimit ∧ s.rcv.idleCount + 1 = s.rcv.cfg.idleLimit
          ∧ t.rcv = { s.rcv with classes := s.rcv.classes ++ [.channelTimeout], idleCount := s.rcv.cfg.idleLimit, state := .done })
      ∨ (i = .rClosed ∧ t.rcv = { s.rcv with state := .failed, err := .channelClosed })
      ∨ (i = .rStop ∧ t.rcv = { s.rcv with state := .done }))

/-- R197: once a frame with number q has been accepted, no frame with that number is delivered again until SEQ_MOD - 1 further
frames have been accepted, whatever operations of any unit come between. -/
def Obligations.ExactlyOnceUntilTheNumbersWrap : Prop :=
  ∀ (s t v w : State) (is : List Instr) (d d' p p' : Bytes) (q : Byte),
    s.rcv.Inv → exec (.rFrame d) s = .next t →
    decodeFrame s.rcv.cfg.maxPayload.toNat d = .parsed q p true → q = s.rcv.expected →
    execAll is t = .next v → v.rcv.delivered.length < t.rcv.delivered.length + (s.rcv.cfg.seqMod.toNat - 1) →
    decodeFrame v.rcv.cfg.maxPayload.toNat d' = .parsed q p' true → exec (.rFrame d') v = .next w →
    w.rcv.delivered = v.rcv.delivered

/-- R201: `RUN` returns Ok exactly in DONE and Err(ChannelClosed) in FAILED, after a prefix of the inputs; and what is
delivered is only ever appended to the sink. -/
def Obligations.RunEndsInDoneOrFailed : Prop :=
  ∀ (s : State) (ins : List RcvInput), s.rcv.Inv → s.rcv.state = .run →
    (∀ t rest, runReceiver ins s = .ok t rest → t.rcv.state = .done ∧ t.rcv.err = .noError
      ∧ rest <:+ ins ∧ s.rcv.sink <+: t.rcv.sink ∧ t.snd = s.snd)
    ∧ (∀ e t rest, runReceiver ins s = .err e t rest → t.rcv.state = .failed ∧ e = .channelClosed
      ∧ rest <:+ ins ∧ s.rcv.sink <+: t.rcv.sink ∧ t.snd = s.snd)
    ∧ (∀ t, runReceiver ins s = .running t → t.rcv.state = .run ∧ s.rcv.sink <+: t.rcv.sink
      ∧ RcvInput.stop ∉ ins ∧ RcvInput.closed ∉ ins)
    ∧ (∀ f, runReceiver ins s ≠ .stopped f) ∧ (∀ r, runReceiver ins s ≠ .refused r)

/-! ## The wire formats -/

/-- R90, R237 (the model's reading of the table's row FRAME, notes/assumptions/5.md): a frame datagram that reaches the
running receiver is accepted if its payload fits, its checksum byte is right and its number expected, and otherwise answered
by the last acknowledgment with no delivery; outside RUN it is not taken. -/
def Obligations.FrameArrivalIsAcceptedOrReacknowledged : Prop :=
  ∀ (s : State) (c q : Byte) (p : Bytes), p.length < 65536 →
    (s.rcv.state = .run → p.length ≤ s.rcv.cfg.maxPayload.toNat → c.toNat = (p.map BitVec.toNat).sum % 255 →
      q = s.rcv.expected →
      exec (.frame c q p) s = .next { s with rcv := { s.rcv with idleCount := 0, lastAcked := q, expected := toByte ((s.rcv.expected.toNat + 1) % s.rcv.cfg.seqMod.toNat), out := s.rcv.out ++ [.sink p, .ackTx q] } })
    ∧ (s.rcv.state = .run →
      ¬ (p.length ≤ s.rcv.cfg.maxPayload.toNat ∧ c.toNat = (p.map BitVec.toNat).sum % 255 ∧ q = s.rcv.expected) →
      ∃ e, exec (.frame c q p) s = .next { s with rcv := { s.rcv with idleCount := 0, classes := s.rcv.classes ++ [e], out := s.rcv.out ++ [.ackTx s.rcv.lastAcked] } })
    ∧ (s.rcv.state ≠ .run → exec (.frame c q p) s = .fault .notEnabled)

/-- R94, R236 (the model's reading of the table's row ACK, notes/assumptions/5.md): a one-byte acknowledgment that reaches
the waiting sender confirms the pending frame if it is its number, and otherwise is a retry. -/
def Obligations.AckArrivalConfirmsOrRetries : Prop :=
  ∀ (s : State) (q : Byte),
    (s.snd.state = .wait → q = s.snd.nextSequence →
      exec (.ack q) s = .next { s with snd := { s.snd with retryCount := 0, nextSequence := toByte ((s.snd.nextSequence.toNat + 1) % s.snd.cfg.seqMod.toNat), pendValid := false, pendBuf := [], state := .idle, out := s.snd.out ++ [.confirmed] } })
    ∧ (∀ f : Bytes, s.snd.state = .wait → q ≠ s.snd.nextSequence → s.snd.retryCount + 1 ≤ s.snd.cfg.maxRetry →
      memRead s.snd.pendBuf 0 s.snd.pendLen = some f →
      exec (.ack q) s = .next { s with snd := { s.snd with retryCount := s.snd.retryCount + 1, out := s.snd.out ++ [.tx f] } })
    ∧ (s.snd.state = .wait → q ≠ s.snd.nextSequence → s.snd.cfg.maxRetry < s.snd.retryCount + 1 →
      exec (.ack q) s = .next { s with snd := { s.snd with retryCount := s.snd.retryCount + 1, state := .failed, err := .deliveryFailed } })
    ∧ (s.snd.state ≠ .wait → exec (.ack q) s = .fault .notEnabled)

/-- R99: every frame that a step transmits is one DEC accepts, with a number below SEQ_MOD, and every acknowledgment that a
step sends is a number below SEQ_MOD. -/
def Obligations.EmittedDatagramsAreValid : Prop :=
  ∀ s t : State, BlockInv s → step s = .next t →
    (∀ (f : Bytes) (new : List SndEvent), t.snd.out = s.snd.out ++ new → .tx f ∈ new →
      ∃ q p, decodeFrame t.snd.cfg.maxPayload.toNat f = .parsed q p true ∧ q.toNat < t.snd.cfg.seqMod.toNat)
    ∧ (∀ (b : Byte) (new : List RcvEvent), t.rcv.out = s.rcv.out ++ new → .ackTx b ∈ new →
      b.toNat < t.rcv.cfg.seqMod.toNat)

/-! ## Whole-machine rules -/

/-- R21: an operation writes registers and output lists of its own unit only, and takes nothing that is presented. -/
def Obligations.OperationsWriteTheirOwnUnitOnly : Prop :=
  ∀ (i : Instr) (s t : State), exec i s = .next t →
    t.requests = s.requests
    ∧ (unitOf i ≠ .snd → t.snd = s.snd) ∧ (unitOf i ≠ .rcv → t.rcv = s.rcv)
    ∧ (unitOf i ≠ .ck → t.ckSnd = s.ckSnd ∧ t.ckRcv = s.ckRcv)
    ∧ (unitOf i ≠ .codec → t.encOut = s.encOut ∧ t.decOut = s.decOut)
    ∧ (i.side = .sender → t.ckRcv = s.ckRcv) ∧ (i.side = .receiver → t.ckSnd = s.ckSnd)

/-- R66, R21: the two sequencers share nothing: what an operation of one does to it depends on that unit alone, and an
operation of SND and one of RCV have the same effect in either order. -/
def Obligations.SequencersShareNothing : Prop :=
  (∀ (i : Instr) (s s' t : State), unitOf i = .snd → s.snd = s'.snd → exec i s = .next t →
    ∃ t', exec i s' = .next t' ∧ t'.snd = t.snd)
  ∧ (∀ (i : Instr) (s s' t : State), unitOf i = .rcv → s.rcv = s'.rcv → exec i s = .next t →
    ∃ t', exec i s' = .next t' ∧ t'.rcv = t.rcv)
  ∧ (∀ (i j : Instr) (s t : State), unitOf i = .snd → unitOf j = .rcv →
    (andThen (exec i s) (exec j) = .next t ↔ andThen (exec j s) (exec i) = .next t))

/-- R229: in FAILED at either end, and in DONE at the receiver, no operation of the unit is enabled, and a step changes a
register of the unit only if it is the reset of the unit, with parameters that were presented. -/
def Obligations.TerminalStatesAreSticky : Prop :=
  (∀ (s : State) (i : Instr), (unitOf i = .snd ∧ s.snd.state = .failed)
      ∨ (unitOf i = .rcv ∧ (s.rcv.state = .done ∨ s.rcv.state = .failed)) → exec i s = .fault .notEnabled)
  ∧ ∀ s t : State, step s = .next t →
    (s.snd.state = .failed → t.snd = s.snd ∨ ∃ p, Request.reset (.snd p) ∈ s.requests ∧ t.snd = Snd.reset p)
    ∧ (s.rcv.state = .done ∨ s.rcv.state = .failed →
        t.rcv = s.rcv ∨ ∃ p, Request.reset (.rcv p) ∈ s.requests ∧ t.rcv = Rcv.reset p)

/-- R38: a step leaves the configuration registers of a unit as they are, unless it is the reset of the unit, which loads
parameters that were presented. -/
def Obligations.ConfigurationIsReadOnly : Prop :=
  ∀ s t : State, step s = .next t →
    (t.snd.cfg = s.snd.cfg ∨ ∃ p, Request.reset (.snd p) ∈ s.requests ∧ t.snd = Snd.reset p)
    ∧ (t.rcv.cfg = s.rcv.cfg ∨ ∃ p, Request.reset (.rcv p) ∈ s.requests ∧ t.rcv = Rcv.reset p)

/-- R65, R71: events are only ever appended to a unit's output list, at most one by a step at the sender and two at the
receiver, unless the step is the reset of the unit with parameters that were presented. -/
def Obligations.OutputsAreAppendedInOrder : Prop :=
  ∀ s t : State, step s = .next t →
    ((∃ new, t.snd.out = s.snd.out ++ new ∧ new.length ≤ 1)
      ∨ ∃ p, Request.reset (.snd p) ∈ s.requests ∧ t.snd = Snd.reset p)
    ∧ ((∃ new, t.rcv.out = s.rcv.out ++ new ∧ new.length ≤ 2)
      ∨ ∃ p, Request.reset (.rcv p) ∈ s.requests ∧ t.rcv = Rcv.reset p)

/-- R222: two states that differ in the labels of `classify` only are indistinguishable: a step ends the same way from both,
with the same registers and outputs. -/
def Obligations.ClassifyLabelsCannotBeObserved : Prop :=
  ∀ s t : State, s.forgetLabels = t.forgetLabels → sameButLabels (step s) (step t)

/-! ## Both ends -/

/-- R276: before any frame has been accepted, and whatever has happened at either end until then, a datagram that is not
delivered is answered by exactly one acknowledgment, which is not the sender's number: the two ends agreeing as R271 asks, it
does not confirm the sender's first frame. -/
def Obligations.RejectedFirstFrameIsNotConfirmed : Prop :=
  ∀ (s t : State) (i : Instr), BlockInv s → s.snd.cfg.seqMod = s.rcv.cfg.seqMod → s.snd.cfg.startSeq = s.rcv.cfg.startSeq →
    s.snd.confirmations = 0 → s.rcv.delivered = [] →
    ((∃ d, i = .rFrame d) ∨ ∃ c q p, i = .frame c q p) → exec i s = .next t → t.rcv.delivered = [] →
    ∃ b : Byte, t.rcv.out = s.rcv.out ++ [.ackTx b] ∧ b ≠ s.snd.nextSequence
      ∧ (∀ v, exec (.sAck [b]) t = .next v →
          v.snd.confirmations = 0 ∧ v.snd.nextSequence = s.snd.nextSequence ∧ v.snd.state ≠ .idle)

/-- R271: with different START_SEQ at the two ends the sender's first frame is never accepted, however many copies arrive.
How the transfer then ends is the next statement. -/
def Obligations.DisagreeingStartIsNeverAccepted : Prop :=
  ∀ (p q : Params) (s t v : State) (c f : Bytes) (n : Nat), paramsLegal p = true → paramsLegal q = true →
    p.startSeq ≠ q.startSeq → s = State.resetWith p q → exec (.sLoad c) s = .next t → t.snd.frames = [f] →
    execAll (List.replicate n (.rFrame f)) t = .next v → v.rcv.delivered = [] ∧ v.rcv.acks = List.replicate n v.rcv.lastAcked

/-- How a transfer with different START_SEQ ends on the fault-free channel of R68 (notes/assumptions/18.md), where each frame is
delivered once and answered by the acknowledgment the receiver sends: `deliverChunk` does these operations. R271 says:
with DeliveryFailed. It does, after MAX_RETRY + 1 answers, unless the receiver's START_SEQ is one ahead of the sender's: then
the acknowledgment re-sent (R33, R195) is the sender's own number, R163 takes it, and the first chunk is confirmed although it
was not delivered. That the model follows those rules there, and not R271's sentence, is notes/assumptions/27.md. -/
def Obligations.DisagreeingStartEndsByTheReacknowledgment : Prop :=
  ∀ (p q : Params) (s t : State) (c f : Bytes), paramsLegal p = true → paramsLegal q = true →
    p.startSeq ≠ q.startSeq → s = State.resetWith p q → exec (.sLoad c) s = .next t → t.snd.frames = [f] →
    ((q.startSeq + q.seqMod - 1) % q.seqMod ≠ p.startSeq →
      ∃ v, execAll (List.replicate (p.maxRetry + 1) [Instr.rFrame f, .sAck [s.rcv.lastAcked]]).flatten t = .next v
        ∧ v.snd.state = .failed ∧ v.snd.err = .deliveryFailed ∧ v.snd.confirmations = 0 ∧ v.rcv.delivered = []
        ∧ v.rcv.acks = List.replicate (p.maxRetry + 1) s.rcv.lastAcked
        ∧ v.snd.frames = List.replicate (p.maxRetry + 1) f ∧ deliverChunk .none c s = .next v)
    ∧ ((q.startSeq + q.seqMod - 1) % q.seqMod = p.startSeq →
      ∃ v, execAll [.rFrame f, .sAck [s.rcv.lastAcked]] t = .next v
        ∧ v.snd.state = .idle ∧ v.snd.confirmations = 1 ∧ v.rcv.delivered = [] ∧ v.rcv.acks = [s.rcv.lastAcked]
        ∧ deliverChunk .none c s = .next v)

/-- R277: on the fault-free channel of R68 (as notes/assumptions/18.md reads it) every transfer, of any length and across any
number of wraparounds, completes: the sink grows by exactly the data, there is one transmission and one confirmation for each
chunk, the chunks are delivered in order and acknowledged with their own numbers, and the retry count is 0 at the end. R.TIMEOUT
may come at the receiver while no frame is in flight, as R68 allows, in silences that do not reach the idle limit; one that
does is the next statement. And whatever the two ends are configured to, agreeing or not (R271), every transmission, those after
an acknowledgment that did not match among them, is delivered and answered exactly once, until the sender has had its chunks
confirmed or is FAILED with DeliveryFailed. -/
def Obligations.FaultFreeTransferDeliversTheData : Prop :=
  (∀ (s : State) (ps : List Silence) (data : Bytes), BlockInv s → s.snd.state = .idle → s.rcv.state = .run →
    s.snd.cfg.maxPayload = s.rcv.cfg.maxPayload → s.snd.cfg.seqMod = s.rcv.cfg.seqMod → s.snd.nextSequence = s.rcv.expected →
    silencesFit s.rcv.cfg.idleLimit s.rcv.idleCount (chunks s.snd.cfg.maxPayload.toNat data).length ps →
    ∃ t, transfer ps data s = .next t ∧ t.snd.state = .idle ∧ t.rcv.state = .run ∧ t.snd.retryCount = 0
      ∧ t.rcv.sink = s.rcv.sink ++ data
      ∧ t.rcv.delivered = s.rcv.delivered ++ chunks s.snd.cfg.maxPayload.toNat data
      ∧ t.snd.frames.length = s.snd.frames.length + (chunks s.snd.cfg.maxPayload.toNat data).length
      ∧ t.snd.confirmations = s.snd.confirmations + (chunks s.snd.cfg.maxPayload.toNat data).length
      ∧ t.rcv.acks = s.rcv.acks ++ (List.range (chunks s.snd.cfg.maxPayload.toNat data).length).map
          (fun i => toByte ((s.snd.nextSequence.toNat + i) % s.snd.cfg.seqMod.toNat))
      ∧ t.snd.nextSequence = t.rcv.expected)
  ∧ (∀ (s : State) (ps : List Silence) (data : Bytes), BlockInv s → s.snd.state = .idle → s.rcv.state = .run →
    s.rcv.cfg.idleLimit = 0 ∨ ps = [] →
    ∃ (t : State) (n : Nat), transfer ps data s = .next t ∧ t.rcv.state = .run
      ∧ t.snd.frames.length = s.snd.frames.length + n ∧ t.rcv.acks.length = s.rcv.acks.length + n
      ∧ ((t.snd.state = .idle
          ∧ t.snd.confirmations = s.snd.confirmations + (chunks s.snd.cfg.maxPayload.toNat data).length)
        ∨ (t.snd.state = .failed ∧ t.snd.err = .deliveryFailed
          ∧ t.snd.confirmations < s.snd.confirmations + (chunks s.snd.cfg.maxPayload.toNat data).length)))

/-- R283(b), R272: with IDLE_LIMIT > 0 a silence that reaches the limit ends the receiver in DONE in the middle of a stream.
The next chunk cannot be delivered over the fault-free channel, since its frame is not taken; and a sender that only sees
timeouts for it ends with DeliveryFailed, the receiver and its sink staying as they were. -/
def Obligations.SilenceEndsTheReceiverInMidStream : Prop :=
  ∀ (s : State) (c : Bytes) (ws : List Nat), BlockInv s → s.snd.state = .idle → s.rcv.state = .run → 0 < s.rcv.cfg.idleLimit →
    c.length ≤ s.snd.cfg.maxPayload.toNat →
    ∃ t, silent (s.rcv.cfg.idleLimit - s.rcv.idleCount) s = .next t ∧ t.rcv.state = .done ∧ t.rcv.err = .noError
      ∧ t.rcv.out = s.rcv.out ∧ t.snd = s.snd
      ∧ deliverChunk { beforeLoad := s.rcv.cfg.idleLimit - s.rcv.idleCount, beforeAck := ws } c s = .fault .notEnabled
      ∧ ∃ v, execAll (.sLoad c :: List.replicate (s.snd.cfg.maxRetry + 1) .sTimeout) t = .next v
        ∧ v.snd.state = .failed ∧ v.snd.err = .deliveryFailed ∧ v.snd.confirmations = s.snd.confirmations ∧ v.rcv = t.rcv

/-- R278: on a channel that loses, duplicates and delays, but delivers in sending order, and whose corruptions are all
detected (as notes/assumptions/18.md renders it), the delivered payloads are at every moment the first j chunks, each once and in order, and when the sender has had
every chunk confirmed the sink holds all of the data. -/
def Obligations.InOrderChannelDeliversAPrefix : Prop :=
  ∀ (p q : Params) (data : Bytes) (ms : List LinkMove) (l : Link), paramsLegal p = true → paramsLegal q = true → paramsAgree p q →
    Link.run ms (Link.start p q data) = some l →
    (∃ j, l.hw.rcv.delivered = (chunks p.maxPayload data).take j ∧ l.hw.rcv.sink = ((chunks p.maxPayload data).take j).flatten)
    ∧ (l.todo = [] → l.hw.snd.state = .idle → l.hw.rcv.sink = data)

/-! ## Progress -/

/-- R287 with R172: while the transport adapter is fair (every outstanding `receive` is eventually answered), in every execution
unit SND leaves WAIT: the pending frame is confirmed, or the unit is FAILED, or it was reset. And `SEND` has returned when it
has been given MAX_RETRY + 1 answers for each chunk. -/
def Obligations.FairTransportEndsEveryWait : Prop :=
  (∀ (e : Execution) (n : Nat), e.valid → e.fair .sender → (e.state n).snd.state = .wait →
    ∃ m, n ≤ m ∧ (∀ k, n ≤ k → k ≤ m → (e.state k).snd.state = .wait)
      ∧ (((e.state (m + 1)).snd.state = .idle ∧ (e.state (m + 1)).snd.confirmations = (e.state n).snd.confirmations + 1)
        ∨ ((e.state (m + 1)).snd.state = .failed ∧ (e.state (m + 1)).snd.confirmations = (e.state n).snd.confirmations
          ∧ ((e.state (m + 1)).snd.err = .deliveryFailed ∨ (e.state (m + 1)).snd.err = .channelClosed
            ∨ (e.state (m + 1)).snd.err = .cancelled))
        ∨ ∃ p, e.event m = some (.reset (.snd p)) ∧ (e.state (m + 1)).snd = Snd.reset p))
  ∧ (∀ (s t : State) (data : Bytes) (as : List Answer), s.snd.Inv → s.snd.state = .idle → send data s as = .waiting t →
      as.length < (chunks s.snd.cfg.maxPayload.toNat data).length * (s.snd.cfg.maxRetry + 1))

/-- R287 with R198: with IDLE_LIMIT > 0 and a fair transport adapter, in every execution in which no datagram reaches the
receiver from some moment on, the run ends, in DONE or with ChannelClosed, unless the unit is reset. And `RUN` has returned
when it has been given IDLE_LIMIT timeouts in a row. -/
def Obligations.FairTransportEndsASilentRun : Prop :=
  (∀ (e : Execution) (n : Nat), e.valid → e.fair .receiver → e.silentFrom n → (e.state n).rcv.Inv →
    0 < (e.state n).rcv.cfg.idleLimit →
    ∃ m, n ≤ m ∧ (((e.state m).rcv.state = .done ∧ (e.state m).rcv.err = .noError)
      ∨ ((e.state m).rcv.state = .failed ∧ (e.state m).rcv.err = .channelClosed)
      ∨ ∃ p, e.event m = some (.reset (.rcv p))))
  ∧ (∀ (s t : State) (ins : List RcvInput) (k : Nat), s.rcv.Inv → 0 < s.rcv.cfg.idleLimit →
      runReceiver (ins ++ List.replicate k .timeout) s = .running t → k < s.rcv.cfg.idleLimit)
end

