-- ==== Sys2Proof/Laws/Codec.lean ====
section
/-! SUPPORT. The fields of a frame, the checksum function, and what ENC and DEC answer. -/

namespace Sys2Proof

/-- The two length bytes of a 16-bit length put together again (R92). -/
theorem lengthOf_split {n : Nat} (h : n < 65536) : lengthOf (lengthHi n) (lengthLo n) = n := by
  simp only [lengthOf, lengthHi, lengthLo, BitVec.toNat_ofNat]
  omega

theorem lengthOf_lt (hi lo : Byte) : lengthOf hi lo < 65536 := by
  have := hi.isLt
  have := lo.isLt
  simp only [lengthOf]
  omega

/-- The bytes of an assembled length are the ones it was assembled from (R92). -/
theorem lengthHi_lengthOf (hi lo : Byte) : lengthHi (lengthOf hi lo) = hi := by
  have h1 := hi.isLt
  have h2 := lo.isLt
  apply BitVec.eq_of_toNat_eq
  simp only [lengthOf, lengthHi, BitVec.toNat_ofNat]
  omega

theorem lengthLo_lengthOf (hi lo : Byte) : lengthLo (lengthOf hi lo) = lo := by
  have h1 := hi.isLt
  have h2 := lo.isLt
  apply BitVec.eq_of_toNat_eq
  simp only [lengthOf, lengthLo, BitVec.toNat_ofNat]
  omega

namespace Machine

/-- R121. -/
theorem csum255_lt (p : Bytes) : csum255 p < 255 := Nat.mod_lt _ (by decide)

@[simp] theorem csum255_nil : csum255 [] = 0 := rfl

/-- R122(b), with the byte at the front. -/
theorem csum255_cons (b : Byte) (p : Bytes) : csum255 (b :: p) = (b.toNat + csum255 p) % 255 := by
  simp [csum255, csumMod]

/-- R122(a). -/
theorem csum255_append (a b : Bytes) : csum255 (a ++ b) = (csum255 a + csum255 b) % 255 := by
  simp [csum255, csumMod, Nat.add_mod]

/-- The checksum byte of a frame as a number. -/
@[simp] theorem toNat_toByte_csum255 (p : Bytes) : (toByte (csum255 p)).toNat = csum255 p := by
  have := csum255_lt p
  simp only [BitVec.toNat_ofNat]
  omega

/-- The adder of R124 as a number: one conditional subtraction. -/
theorem toNat_ckSum (acc b : Byte) :
    (ckSum acc b).toNat = if 255 ≤ acc.toNat + b.toNat then acc.toNat + b.toNat - 255 else acc.toNat + b.toNat := by
  have := acc.isLt
  have := b.isLt
  simp only [ckSum, csumMod]
  split <;> simp only [BitVec.toNat_ofNat] <;> omega

/-- The adder of R124 keeps the canonical range and adds modulo 255. -/
theorem toNat_ckSum_mod {acc : Byte} (h : acc.toNat ≤ 254) (b : Byte) : (ckSum acc b).toNat = (acc.toNat + b.toNat) % 255 := by
  have := b.isLt
  rw [toNat_ckSum]
  split <;> omega

@[simp] theorem length_assemble (c q : Byte) (p : Bytes) : (assemble c q p).length = 4 + p.length := by
  simp only [assemble, List.length_cons]
  omega

/-- What DEC answers on a datagram shorter than a header (R144). -/
theorem decodeFrame_short {m : Nat} {d : Bytes} (h : d.length < 4) : decodeFrame m d = .malformed := by
  simp [decodeFrame, malformed, hdrLen, h]

/-- What DEC answers on four bytes or more (R143 to R145). -/
theorem decodeFrame_header (m : Nat) (c q hi lo : Byte) (p : Bytes) :
    decodeFrame m (c :: q :: hi :: lo :: p) =
      if m < lengthOf hi lo ∨ p.length ≠ lengthOf hi lo then .malformed
      else .parsed q p (csum255 p == c.toNat) := by
  have hlen : lengthField (c :: q :: hi :: lo :: p) = lengthOf hi lo := rfl
  by_cases h : m < lengthOf hi lo ∨ p.length ≠ lengthOf hi lo
  · have : malformed m (c :: q :: hi :: lo :: p) = true := by
      simp only [malformed, hlen, hdrLen, List.length_cons, Bool.or_eq_true, decide_eq_true_eq]
      omega
    simp [decodeFrame, this, h]
  · have hm : malformed m (c :: q :: hi :: lo :: p) = false := by
      simp only [malformed, hlen, hdrLen, List.length_cons, Bool.or_eq_false_iff, decide_eq_false_iff_not]
      omega
    have hp : payloadField (c :: q :: hi :: lo :: p) = p := by
      have : p.length = lengthOf hi lo := by omega
      simp [payloadField, hlen, hdrLen, ← this]
    simp [decodeFrame, hm, h, checksumOk, hp, byteAt]

/-- A datagram that parses, in its parts. -/
theorem decodeFrame_eq_parsed {m : Nat} {d : Bytes} {q : Byte} {p : Bytes} {ok : Bool} :
    decodeFrame m d = .parsed q p ok ↔
      ∃ c hi lo, d = c :: q :: hi :: lo :: p ∧ lengthOf hi lo ≤ m ∧ p.length = lengthOf hi lo ∧ ok = (csum255 p == c.toNat) := by
  constructor
  · intro h
    rcases d with _ | ⟨c, _ | ⟨q', _ | ⟨hi, _ | ⟨lo, p'⟩⟩⟩⟩
    iterate 4 (rw [decodeFrame_short (by simp)] at h; cases h)
    rw [decodeFrame_header] at h
    split at h
    · cases h
    · rename_i hn
      injection h with h1 h2 h3
      subst h1 h2 h3
      exact ⟨c, hi, lo, rfl, by omega, by omega, rfl⟩
  · rintro ⟨c, hi, lo, rfl, h1, h2, rfl⟩
    rw [decodeFrame_header, if_neg (by omega)]

/-- DEC of an assembled frame (R90, R143). -/
theorem decodeFrame_assemble {m : Nat} {p : Bytes} (c q : Byte) (h : p.length ≤ m) (hp : p.length < 65536) :
    decodeFrame m (assemble c q p) = .parsed q p (csum255 p == c.toNat) := by
  rw [assemble, decodeFrame_header, lengthOf_split hp, if_neg (by omega)]

/-- R146: DEC of an encoded frame. -/
theorem decodeFrame_encodeFrame {m : Nat} {q : Byte} {p f : Bytes} (hm : m < 65536) (h : encodeFrame m q p = .frame f) :
    decodeFrame m f = .parsed q p true := by
  simp only [encodeFrame] at h
  split at h
  · cases h
  · rename_i hn
    injection h with h
    subst h
    rw [decodeFrame_assemble _ _ (by omega) (by omega), toNat_toByte_csum255, beq_self_eq_true]

/-- What ENC answers on a payload that fits (R141). -/
theorem encodeFrame_fits {m : Nat} {p : Bytes} (q : Byte) (h : p.length ≤ m) :
    encodeFrame m q p = .frame (assemble (toByte (csum255 p)) q p) := by
  simp [encodeFrame, Nat.not_lt.mpr h]

/-- What ENC answers on a payload that does not fit (R141). -/
theorem encodeFrame_tooLarge {m : Nat} {p : Bytes} (q : Byte) (h : m < p.length) : encodeFrame m q p = .payloadTooLarge := by
  simp [encodeFrame, h]

end Machine

end Sys2Proof
end

