-- ==== Sys2Proof/Laws/Memory.lean ====
section
/-! SUPPORT. The buffer of byte cells: reading after writing, and the canonical form. -/

namespace Sys2Proof.Machine

/-- Reading after writing one byte. -/
theorem Memory.read_write (m : Memory) (a k : Nat) (b : Byte) :
    Memory.read (Memory.write m a b) k = if k = a then some b else Memory.read m k := by
  induction m with
  | nil => simp [Memory.write, Memory.read]
  | cons c m ih =>
    obtain ⟨j, c⟩ := c
    simp only [Memory.write]
    split
    · simp [Memory.read]
    · split
      · subst_vars
        simp only [Memory.read]
        split <;> rfl
      · simp only [Memory.read, ih]
        by_cases h : k = j
        · subst h; simp; omega
        · simp [h]

/-- Writing keeps the cells above any bound they were above. -/
theorem Memory.risingFrom_write {m : Memory} {lo a : Nat} {b : Byte} (h : Memory.risingFrom lo m = true) (ha : lo ≤ a) :
    Memory.risingFrom lo (Memory.write m a b) = true := by
  induction m generalizing lo with
  | nil => simp [Memory.write, Memory.risingFrom, ha]
  | cons c m ih =>
    obtain ⟨j, c⟩ := c
    simp only [Memory.risingFrom, Bool.and_eq_true, decide_eq_true_eq] at h
    simp only [Memory.write]
    split
    · simp [Memory.risingFrom, ha, h.2]; omega
    · split
      · subst_vars; simp [Memory.risingFrom, ha, h.2]
      · simp only [Memory.risingFrom, Bool.and_eq_true, decide_eq_true_eq]
        exact ⟨h.1, ih h.2 (by omega)⟩

/-- A write keeps the canonical form. -/
theorem Memory.wf_write {m : Memory} (a : Nat) (b : Byte) (h : m.wf = true) : (Memory.write m a b).wf = true :=
  Memory.risingFrom_write h (Nat.zero_le a)

/-- `MemWrite` keeps the canonical form. -/
theorem wf_memWrite {m : Memory} (a : Nat) (v : Bytes) (h : m.wf = true) : (memWrite m a v).wf = true := by
  induction v generalizing m a with
  | nil => exact h
  | cons b v ih => exact ih (a + 1) (Memory.wf_write a b h)

/-- The byte at an offset after `MemWrite`: the string's inside it, the old one outside it. -/
theorem read_memWrite (m : Memory) (a k : Nat) (v : Bytes) :
    Memory.read (memWrite m a v) k = if a ≤ k ∧ k < a + v.length then v[k - a]? else Memory.read m k := by
  induction v generalizing m a with
  | nil => simp [memWrite]
  | cons b v ih =>
    simp only [memWrite, ih, Memory.read_write, List.length_cons]
    by_cases h : k = a
    · subst h
      simp
    · by_cases h2 : a + 1 ≤ k ∧ k < a + 1 + v.length
      · have h3 : a ≤ k ∧ k < a + (v.length + 1) := by omega
        have h4 : k - a = (k - (a + 1)) + 1 := by omega
        simp [h2, h3, h4]
      · have h3 : ¬ (a ≤ k ∧ k < a + (v.length + 1)) := by omega
        rw [if_neg h2, if_neg h, if_neg h3]

/-- `MemRead` answers a string exactly when every byte of it holds that value. -/
theorem memRead_eq_some {m : Memory} {a n : Nat} {v : Bytes} :
    memRead m a n = some v ↔ v.length = n ∧ ∀ i, i < n → Memory.read m (a + i) = v[i]? := by
  induction n generalizing a v with
  | zero =>
    simp only [memRead, Option.some.injEq]
    constructor
    · rintro rfl; simp
    · rintro ⟨h, -⟩; exact (List.length_eq_zero_iff.mp h).symm
  | succ n ih =>
    simp only [memRead]
    constructor
    · intro h
      split at h
      · rename_i b w hb hw
        obtain rfl : b :: w = v := by simpa using h
        obtain ⟨hl, hr⟩ := ih.mp hw
        refine ⟨by simp [hl], fun i hi => ?_⟩
        cases i with
        | zero => simpa using hb
        | succ i =>
          have := hr i (by omega)
          simpa [Nat.add_assoc, Nat.add_comm 1] using this
      · cases h
    · rintro ⟨hl, hr⟩
      cases v with
      | nil => simp at hl
      | cons b w =>
        have h0 : Memory.read m a = some b := by simpa using hr 0 (by omega)
        have h1 : memRead m (a + 1) n = some w := by
          refine ih.mpr ⟨by simpa using hl, fun i hi => ?_⟩
          have := hr (i + 1) (by omega)
          simpa [Nat.add_assoc, Nat.add_comm 1] using this
        simp [h0, h1]

/-- Reading back the string just written. -/
theorem memRead_memWrite (m : Memory) (a : Nat) (v : Bytes) : memRead (memWrite m a v) a v.length = some v := by
  refine memRead_eq_some.mpr ⟨rfl, fun i hi => ?_⟩
  have : a ≤ a + i ∧ a + i < a + v.length := by omega
  simp [read_memWrite, hi]

end Sys2Proof.Machine
end

