-- ==== Sys2Proof/Laws/State.lean ====
section
/-! SUPPORT. The fields of the state after each named update, true by unfolding the update once. -/

namespace Sys2Proof.Machine

/-! ## Units -/

@[simp] theorem Snd.emit_cfg (u : Snd) (e : SndEvent) : (u.emit e).cfg = u.cfg := rfl
@[simp] theorem Snd.emit_state (u : Snd) (e : SndEvent) : (u.emit e).state = u.state := rfl
@[simp] theorem Snd.emit_err (u : Snd) (e : SndEvent) : (u.emit e).err = u.err := rfl
@[simp] theorem Snd.emit_nextSequence (u : Snd) (e : SndEvent) : (u.emit e).nextSequence = u.nextSequence := rfl
@[simp] theorem Snd.emit_retryCount (u : Snd) (e : SndEvent) : (u.emit e).retryCount = u.retryCount := rfl
@[simp] theorem Snd.emit_pendValid (u : Snd) (e : SndEvent) : (u.emit e).pendValid = u.pendValid := rfl
@[simp] theorem Snd.emit_pendLen (u : Snd) (e : SndEvent) : (u.emit e).pendLen = u.pendLen := rfl
@[simp] theorem Snd.emit_pendBuf (u : Snd) (e : SndEvent) : (u.emit e).pendBuf = u.pendBuf := rfl
@[simp] theorem Snd.emit_out (u : Snd) (e : SndEvent) : (u.emit e).out = u.out ++ [e] := rfl
@[simp] theorem Snd.emit_classes (u : Snd) (e : SndEvent) : (u.emit e).classes = u.classes := rfl

@[simp] theorem Snd.classify_cfg (u : Snd) (e : ErrorCode) : (u.classify e).cfg = u.cfg := rfl
@[simp] theorem Snd.classify_state (u : Snd) (e : ErrorCode) : (u.classify e).state = u.state := rfl
@[simp] theorem Snd.classify_err (u : Snd) (e : ErrorCode) : (u.classify e).err = u.err := rfl
@[simp] theorem Snd.classify_nextSequence (u : Snd) (e : ErrorCode) : (u.classify e).nextSequence = u.nextSequence := rfl
@[simp] theorem Snd.classify_retryCount (u : Snd) (e : ErrorCode) : (u.classify e).retryCount = u.retryCount := rfl
@[simp] theorem Snd.classify_pendValid (u : Snd) (e : ErrorCode) : (u.classify e).pendValid = u.pendValid := rfl
@[simp] theorem Snd.classify_pendLen (u : Snd) (e : ErrorCode) : (u.classify e).pendLen = u.pendLen := rfl
@[simp] theorem Snd.classify_pendBuf (u : Snd) (e : ErrorCode) : (u.classify e).pendBuf = u.pendBuf := rfl
@[simp] theorem Snd.classify_out (u : Snd) (e : ErrorCode) : (u.classify e).out = u.out := rfl
@[simp] theorem Snd.classify_classes (u : Snd) (e : ErrorCode) : (u.classify e).classes = u.classes ++ [e] := rfl

@[simp] theorem Snd.raise_cfg (u : Snd) (e : ErrorCode) : (u.raise e).cfg = u.cfg := rfl
@[simp] theorem Snd.raise_state (u : Snd) (e : ErrorCode) : (u.raise e).state = .failed := rfl
@[simp] theorem Snd.raise_err (u : Snd) (e : ErrorCode) : (u.raise e).err = e := rfl
@[simp] theorem Snd.raise_nextSequence (u : Snd) (e : ErrorCode) : (u.raise e).nextSequence = u.nextSequence := rfl
@[simp] theorem Snd.raise_retryCount (u : Snd) (e : ErrorCode) : (u.raise e).retryCount = u.retryCount := rfl
@[simp] theorem Snd.raise_pendValid (u : Snd) (e : ErrorCode) : (u.raise e).pendValid = u.pendValid := rfl
@[simp] theorem Snd.raise_pendLen (u : Snd) (e : ErrorCode) : (u.raise e).pendLen = u.pendLen := rfl
@[simp] theorem Snd.raise_pendBuf (u : Snd) (e : ErrorCode) : (u.raise e).pendBuf = u.pendBuf := rfl
@[simp] theorem Snd.raise_out (u : Snd) (e : ErrorCode) : (u.raise e).out = u.out := rfl
@[simp] theorem Snd.raise_classes (u : Snd) (e : ErrorCode) : (u.raise e).classes = u.classes := rfl

@[simp] theorem Snd.storePending_cfg (u : Snd) (f : Bytes) : (u.storePending f).cfg = u.cfg := rfl
@[simp] theorem Snd.storePending_state (u : Snd) (f : Bytes) : (u.storePending f).state = u.state := rfl
@[simp] theorem Snd.storePending_err (u : Snd) (f : Bytes) : (u.storePending f).err = u.err := rfl
@[simp] theorem Snd.storePending_nextSequence (u : Snd) (f : Bytes) : (u.storePending f).nextSequence = u.nextSequence := rfl
@[simp] theorem Snd.storePending_retryCount (u : Snd) (f : Bytes) : (u.storePending f).retryCount = u.retryCount := rfl
@[simp] theorem Snd.storePending_pendValid (u : Snd) (f : Bytes) : (u.storePending f).pendValid = true := rfl
@[simp] theorem Snd.storePending_pendLen (u : Snd) (f : Bytes) : (u.storePending f).pendLen = f.length := rfl
@[simp] theorem Snd.storePending_pendBuf (u : Snd) (f : Bytes) : (u.storePending f).pendBuf = memWrite u.pendBuf 0 f := rfl
@[simp] theorem Snd.storePending_out (u : Snd) (f : Bytes) : (u.storePending f).out = u.out := rfl
@[simp] theorem Snd.storePending_classes (u : Snd) (f : Bytes) : (u.storePending f).classes = u.classes := rfl

@[simp] theorem Snd.dropPending_cfg (u : Snd) : (u.dropPending).cfg = u.cfg := rfl
@[simp] theorem Snd.dropPending_state (u : Snd) : (u.dropPending).state = u.state := rfl
@[simp] theorem Snd.dropPending_err (u : Snd) : (u.dropPending).err = u.err := rfl
@[simp] theorem Snd.dropPending_nextSequence (u : Snd) : (u.dropPending).nextSequence = u.nextSequence := rfl
@[simp] theorem Snd.dropPending_retryCount (u : Snd) : (u.dropPending).retryCount = u.retryCount := rfl
@[simp] theorem Snd.dropPending_pendValid (u : Snd) : (u.dropPending).pendValid = false := rfl
@[simp] theorem Snd.dropPending_pendLen (u : Snd) : (u.dropPending).pendLen = u.pendLen := rfl
@[simp] theorem Snd.dropPending_pendBuf (u : Snd) : (u.dropPending).pendBuf = [] := rfl
@[simp] theorem Snd.dropPending_out (u : Snd) : (u.dropPending).out = u.out := rfl
@[simp] theorem Snd.dropPending_classes (u : Snd) : (u.dropPending).classes = u.classes := rfl

@[simp] theorem Snd.confirm_cfg (u : Snd) : (u.confirm).cfg = u.cfg := rfl
@[simp] theorem Snd.confirm_state (u : Snd) : (u.confirm).state = .idle := rfl
@[simp] theorem Snd.confirm_err (u : Snd) : (u.confirm).err = u.err := rfl
@[simp] theorem Snd.confirm_nextSequence (u : Snd) : (u.confirm).nextSequence = seqNext u.cfg u.nextSequence := rfl
@[simp] theorem Snd.confirm_retryCount (u : Snd) : (u.confirm).retryCount = 0 := rfl
@[simp] theorem Snd.confirm_pendValid (u : Snd) : (u.confirm).pendValid = false := rfl
@[simp] theorem Snd.confirm_pendLen (u : Snd) : (u.confirm).pendLen = u.pendLen := rfl
@[simp] theorem Snd.confirm_pendBuf (u : Snd) : (u.confirm).pendBuf = [] := rfl
@[simp] theorem Snd.confirm_out (u : Snd) : (u.confirm).out = u.out ++ [.confirmed] := rfl
@[simp] theorem Snd.confirm_classes (u : Snd) : (u.confirm).classes = u.classes := rfl

@[simp] theorem Rcv.emit_cfg (u : Rcv) (e : RcvEvent) : (u.emit e).cfg = u.cfg := rfl
@[simp] theorem Rcv.emit_state (u : Rcv) (e : RcvEvent) : (u.emit e).state = u.state := rfl
@[simp] theorem Rcv.emit_err (u : Rcv) (e : RcvEvent) : (u.emit e).err = u.err := rfl
@[simp] theorem Rcv.emit_expected (u : Rcv) (e : RcvEvent) : (u.emit e).expected = u.expected := rfl
@[simp] theorem Rcv.emit_lastAcked (u : Rcv) (e : RcvEvent) : (u.emit e).lastAcked = u.lastAcked := rfl
@[simp] theorem Rcv.emit_idleCount (u : Rcv) (e : RcvEvent) : (u.emit e).idleCount = u.idleCount := rfl
@[simp] theorem Rcv.emit_out (u : Rcv) (e : RcvEvent) : (u.emit e).out = u.out ++ [e] := rfl
@[simp] theorem Rcv.emit_classes (u : Rcv) (e : RcvEvent) : (u.emit e).classes = u.classes := rfl

@[simp] theorem Rcv.classify_cfg (u : Rcv) (e : ErrorCode) : (u.classify e).cfg = u.cfg := rfl
@[simp] theorem Rcv.classify_state (u : Rcv) (e : ErrorCode) : (u.classify e).state = u.state := rfl
@[simp] theorem Rcv.classify_err (u : Rcv) (e : ErrorCode) : (u.classify e).err = u.err := rfl
@[simp] theorem Rcv.classify_expected (u : Rcv) (e : ErrorCode) : (u.classify e).expected = u.expected := rfl
@[simp] theorem Rcv.classify_lastAcked (u : Rcv) (e : ErrorCode) : (u.classify e).lastAcked = u.lastAcked := rfl
@[simp] theorem Rcv.classify_idleCount (u : Rcv) (e : ErrorCode) : (u.classify e).idleCount = u.idleCount := rfl
@[simp] theorem Rcv.classify_out (u : Rcv) (e : ErrorCode) : (u.classify e).out = u.out := rfl
@[simp] theorem Rcv.classify_classes (u : Rcv) (e : ErrorCode) : (u.classify e).classes = u.classes ++ [e] := rfl

@[simp] theorem Rcv.raise_cfg (u : Rcv) (e : ErrorCode) : (u.raise e).cfg = u.cfg := rfl
@[simp] theorem Rcv.raise_state (u : Rcv) (e : ErrorCode) : (u.raise e).state = .failed := rfl
@[simp] theorem Rcv.raise_err (u : Rcv) (e : ErrorCode) : (u.raise e).err = e := rfl
@[simp] theorem Rcv.raise_expected (u : Rcv) (e : ErrorCode) : (u.raise e).expected = u.expected := rfl
@[simp] theorem Rcv.raise_lastAcked (u : Rcv) (e : ErrorCode) : (u.raise e).lastAcked = u.lastAcked := rfl
@[simp] theorem Rcv.raise_idleCount (u : Rcv) (e : ErrorCode) : (u.raise e).idleCount = u.idleCount := rfl
@[simp] theorem Rcv.raise_out (u : Rcv) (e : ErrorCode) : (u.raise e).out = u.out := rfl
@[simp] theorem Rcv.raise_classes (u : Rcv) (e : ErrorCode) : (u.raise e).classes = u.classes := rfl

@[simp] theorem Rcv.reject_cfg (u : Rcv) (e : ErrorCode) : (u.reject e).cfg = u.cfg := rfl
@[simp] theorem Rcv.reject_state (u : Rcv) (e : ErrorCode) : (u.reject e).state = u.state := rfl
@[simp] theorem Rcv.reject_err (u : Rcv) (e : ErrorCode) : (u.reject e).err = u.err := rfl
@[simp] theorem Rcv.reject_expected (u : Rcv) (e : ErrorCode) : (u.reject e).expected = u.expected := rfl
@[simp] theorem Rcv.reject_lastAcked (u : Rcv) (e : ErrorCode) : (u.reject e).lastAcked = u.lastAcked := rfl
@[simp] theorem Rcv.reject_idleCount (u : Rcv) (e : ErrorCode) : (u.reject e).idleCount = u.idleCount := rfl
@[simp] theorem Rcv.reject_out (u : Rcv) (e : ErrorCode) : (u.reject e).out = u.out ++ [.ackTx u.lastAcked] := rfl
@[simp] theorem Rcv.reject_classes (u : Rcv) (e : ErrorCode) : (u.reject e).classes = u.classes ++ [e] := rfl

@[simp] theorem Rcv.accept_cfg (u : Rcv) (q : Byte) (p : Bytes) : (u.accept q p).cfg = u.cfg := rfl
@[simp] theorem Rcv.accept_state (u : Rcv) (q : Byte) (p : Bytes) : (u.accept q p).state = u.state := rfl
@[simp] theorem Rcv.accept_err (u : Rcv) (q : Byte) (p : Bytes) : (u.accept q p).err = u.err := rfl
@[simp] theorem Rcv.accept_expected (u : Rcv) (q : Byte) (p : Bytes) : (u.accept q p).expected = seqNext u.cfg u.expected := rfl
@[simp] theorem Rcv.accept_lastAcked (u : Rcv) (q : Byte) (p : Bytes) : (u.accept q p).lastAcked = q := rfl
@[simp] theorem Rcv.accept_idleCount (u : Rcv) (q : Byte) (p : Bytes) : (u.accept q p).idleCount = u.idleCount := rfl
@[simp] theorem Rcv.accept_out (u : Rcv) (q : Byte) (p : Bytes) : (u.accept q p).out = (u.out ++ [.sink p]) ++ [.ackTx q] := rfl
@[simp] theorem Rcv.accept_classes (u : Rcv) (q : Byte) (p : Bytes) : (u.accept q p).classes = u.classes := rfl

@[simp] theorem State.presenting_snd (s : State) (rs : List Request) : (s.presenting rs).snd = s.snd := rfl
@[simp] theorem State.presenting_rcv (s : State) (rs : List Request) : (s.presenting rs).rcv = s.rcv := rfl
@[simp] theorem State.presenting_ckSnd (s : State) (rs : List Request) : (s.presenting rs).ckSnd = s.ckSnd := rfl
@[simp] theorem State.presenting_ckRcv (s : State) (rs : List Request) : (s.presenting rs).ckRcv = s.ckRcv := rfl
@[simp] theorem State.presenting_encOut (s : State) (rs : List Request) : (s.presenting rs).encOut = s.encOut := rfl
@[simp] theorem State.presenting_decOut (s : State) (rs : List Request) : (s.presenting rs).decOut = s.decOut := rfl
@[simp] theorem State.presenting_requests (s : State) (rs : List Request) : (s.presenting rs).requests = rs := rfl

@[simp] theorem State.putCk_snd (s : State) (u : Side) (v : BitVec 8) : (s.putCk u v).snd = s.snd := by cases u <;> rfl
@[simp] theorem State.putCk_rcv (s : State) (u : Side) (v : BitVec 8) : (s.putCk u v).rcv = s.rcv := by cases u <;> rfl
@[simp] theorem State.putCk_encOut (s : State) (u : Side) (v : BitVec 8) : (s.putCk u v).encOut = s.encOut := by cases u <;> rfl
@[simp] theorem State.putCk_decOut (s : State) (u : Side) (v : BitVec 8) : (s.putCk u v).decOut = s.decOut := by cases u <;> rfl
@[simp] theorem State.putCk_requests (s : State) (u : Side) (v : BitVec 8) : (s.putCk u v).requests = s.requests := by cases u <;> rfl

@[simp] theorem State.putCk_ck (s : State) (u : Side) (v : BitVec 8) : (s.putCk u v).ck u = v := by cases u <;> rfl
@[simp] theorem State.putCk_self (s : State) (u : Side) : s.putCk u (s.ck u) = s := by cases u <;> rfl
@[simp] theorem State.putCk_putCk (s : State) (u : Side) (v w : BitVec 8) : (s.putCk u v).putCk u w = s.putCk u w := by
  cases u <;> rfl
@[simp] theorem State.presenting_self (s : State) : s.presenting s.requests = s := rfl
@[simp] theorem State.presenting_presenting (s : State) (rs qs : List Request) :
    (s.presenting rs).presenting qs = s.presenting qs := rfl

/-! ## A unit's operation in the whole state -/

@[simp] theorem State.onSnd_next (s : State) (u : Snd) : s.onSnd (.next u) = .next { s with snd := u } := rfl
@[simp] theorem State.onSnd_fault (s : State) (f : Fault) : s.onSnd (.fault f) = .fault f := rfl
@[simp] theorem State.onSnd_refused (s : State) (r : Refusal) : s.onSnd (.refused r) = .refused r := rfl
@[simp] theorem State.onRcv_next (s : State) (u : Rcv) : s.onRcv (.next u) = .next { s with rcv := u } := rfl
@[simp] theorem State.onRcv_fault (s : State) (f : Fault) : s.onRcv (.fault f) = .fault f := rfl
@[simp] theorem State.onRcv_refused (s : State) (r : Refusal) : s.onRcv (.refused r) = .refused r := rfl

/-- A next state after a unit SND operation is the state with that unit's next state. -/
theorem State.onSnd_eq_next {s t : State} {o : Out Snd} :
    s.onSnd o = .next t ↔ ∃ u, o = .next u ∧ t = { s with snd := u } := by
  cases o <;> simp [eq_comm]

/-- A next state after a unit RCV operation is the state with that unit's next state. -/
theorem State.onRcv_eq_next {s t : State} {o : Out Rcv} :
    s.onRcv o = .next t ↔ ∃ u, o = .next u ∧ t = { s with rcv := u } := by
  cases o <;> simp [eq_comm]

theorem State.onSnd_eq_fault {s : State} {o : Out Snd} {f : Fault} : s.onSnd o = .fault f ↔ o = .fault f := by
  cases o <;> simp

theorem State.onRcv_eq_fault {s : State} {o : Out Rcv} {f : Fault} : s.onRcv o = .fault f ↔ o = .fault f := by
  cases o <;> simp

/-! ## `require` -/

@[simp] theorem require_true {σ : Type} (o : Out σ) : require true o = o := rfl
@[simp] theorem require_false {σ : Type} (o : Out σ) : require false o = .fault .notEnabled := rfl

/-- An operation with a next state was enabled. -/
theorem require_eq_next {σ : Type} {c : Bool} {o : Out σ} {u : σ} : require c o = .next u ↔ c = true ∧ o = .next u := by
  cases c <;> simp

/-- An operation is not enabled if its condition is false, or if what it requires it for says so. -/
theorem require_eq_fault {σ : Type} {c : Bool} {o : Out σ} {f : Fault} :
    require c o = .fault f ↔ (c = false ∧ f = .notEnabled) ∨ (c = true ∧ o = .fault f) := by
  cases c <;> simp [eq_comm]

end Sys2Proof.Machine
end

