-- ==== Sys2Proof/Laws/Units.lean ====
section
/-! SUPPORT. What each operation of the sequencers can do, said once: if it answers a next unit, which one. Later proofs cite
these and do not unfold the operations. -/

namespace Sys2Proof.Machine

/-! ## Unit SND -/

/-- RETRY (R165) has a next unit in exactly two ways. -/
theorem Snd.retry_eq_next {u v : Snd} : u.retry = .next v ↔
    (u.cfg.maxRetry < u.retryCount + 1
      ∧ v = { u with retryCount := u.retryCount + 1, state := .failed, err := .deliveryFailed })
    ∨ (u.retryCount + 1 ≤ u.cfg.maxRetry ∧ ∃ f, u.pending = some f
      ∧ v = { u with retryCount := u.retryCount + 1, out := u.out ++ [.tx f] }) := by
  have hp : Snd.pending { u with retryCount := u.retryCount + 1 } = u.pending := rfl
  by_cases h : u.cfg.maxRetry < u.retryCount + 1
  · have h' : ¬ u.retryCount < u.cfg.maxRetry := by omega
    simp [Snd.retry, retryExceeded, h, h', Snd.raise, eq_comm]
  · cases hq : u.pending with
    | none => simp [Snd.retry, retryExceeded, h, hp, hq]
    | some f =>
      have h' : u.retryCount + 1 ≤ u.cfg.maxRetry := by omega
      simp [Snd.retry, retryExceeded, h, hp, hq, h', Snd.emit, eq_comm]

/-- RETRY is never "not enabled": it stops only on a byte that holds no value. -/
theorem Snd.retry_eq_fault {u : Snd} {f : Fault} : u.retry = .fault f ↔
    f = .noValue ∧ u.retryCount + 1 ≤ u.cfg.maxRetry ∧ u.pending = none := by
  have hp : Snd.pending { u with retryCount := u.retryCount + 1 } = u.pending := rfl
  by_cases h : u.cfg.maxRetry < u.retryCount + 1
  · simp [Snd.retry, retryExceeded, h]; omega
  · cases hq : u.pending with
    | none => simp [Snd.retry, retryExceeded, h, hp, hq, eq_comm]; omega
    | some f => simp [Snd.retry, retryExceeded, h, hp, hq]

theorem Snd.retry_ne_refused {u : Snd} {r : Refusal} : u.retry ≠ .refused r := by
  have hp : Snd.pending { u with retryCount := u.retryCount + 1 } = u.pending := rfl
  by_cases h : u.cfg.maxRetry < u.retryCount + 1
  · simp [Snd.retry, retryExceeded, h]
  · cases hq : u.pending <;> simp [Snd.retry, retryExceeded, h, hp, hq]

/-- `S.LOAD` (R162) has a next unit in exactly two ways, both in IDLE. -/
theorem Snd.load_eq_next {c : Bytes} {u v : Snd} : u.load c = .next v ↔
    u.state = .idle ∧
      ((u.cfg.maxPayload.toNat < c.length ∧ v = u.emit (.loadError .payloadTooLarge))
      ∨ (c.length ≤ u.cfg.maxPayload.toNat ∧
        v = ({ u.storePending (assemble (toByte (csum255 c)) u.nextSequence c) with retryCount := 0, state := .wait } : Snd).emit
          (.tx (assemble (toByte (csum255 c)) u.nextSequence c)))) := by
  simp only [Snd.load, require_eq_next, beq_iff_eq]
  refine and_congr_right fun _ => ?_
  by_cases h : c.length ≤ u.cfg.maxPayload.toNat
  · simp [encodeFrame_fits _ h, h, Nat.not_lt.mpr h, eq_comm]
  · have h' : u.cfg.maxPayload.toNat < c.length := by omega
    simp [encodeFrame_tooLarge _ h', h, h', eq_comm]

theorem Snd.load_eq_fault {c : Bytes} {u : Snd} {f : Fault} : u.load c = .fault f ↔ u.state ≠ .idle ∧ f = .notEnabled := by
  simp only [Snd.load, require_eq_fault, beq_iff_eq, beq_eq_false_iff_ne]
  by_cases h : c.length ≤ u.cfg.maxPayload.toNat
  · simp [encodeFrame_fits _ h]
  · simp [encodeFrame_tooLarge _ (by omega : u.cfg.maxPayload.toNat < c.length)]

/-- `S.ACK` (R163) has a next unit by CONFIRM or by RETRY, both in WAIT. -/
theorem Snd.ackArrived_eq_next {d : Bytes} {u v : Snd} : u.ackArrived d = .next v ↔
    u.state = .wait ∧ ((d = [u.nextSequence] ∧ v = u.confirm) ∨ (d ≠ [u.nextSequence] ∧ u.retry = .next v)) := by
  simp only [Snd.ackArrived, require_eq_next, beq_iff_eq]
  refine and_congr_right fun _ => ?_
  by_cases h : d = [u.nextSequence]
  · simp [ackMatch, h, eq_comm]
  · have : ackMatch d u.nextSequence = false := by simpa [ackMatch] using h
    simp [this, h]

theorem Snd.ackArrived_eq_fault {d : Bytes} {u : Snd} {f : Fault} : u.ackArrived d = .fault f ↔
    (u.state ≠ .wait ∧ f = .notEnabled) ∨ (u.state = .wait ∧ d ≠ [u.nextSequence] ∧ u.retry = .fault f) := by
  simp only [Snd.ackArrived, require_eq_fault, beq_iff_eq, beq_eq_false_iff_ne]
  by_cases h : d = [u.nextSequence]
  · simp [ackMatch, h]
  · have : ackMatch d u.nextSequence = false := by simpa [ackMatch] using h
    simp [this, h]

/-- `S.TIMEOUT` (R166) is RETRY in WAIT, with its label. -/
theorem Snd.timedOut_eq_next {u v : Snd} : u.timedOut = .next v ↔
    u.state = .wait ∧ (u.classify .channelTimeout).retry = .next v := by
  simp [Snd.timedOut, require_eq_next]

theorem Snd.timedOut_eq_fault {u : Snd} {f : Fault} : u.timedOut = .fault f ↔
    (u.state ≠ .wait ∧ f = .notEnabled) ∨ (u.state = .wait ∧ (u.classify .channelTimeout).retry = .fault f) := by
  simp [Snd.timedOut, require_eq_fault]

/-- `S.CLOSED` (R167). -/
theorem Snd.closed_eq_next {u v : Snd} : u.closed = .next v ↔ u.state ≠ .failed ∧ v = u.raise .channelClosed := by
  simp only [Snd.closed, require_eq_next, Host.Outcome.next.injEq, eq_comm (b := v)]
  cases u.state <;> simp

theorem Snd.closed_eq_fault {u : Snd} {f : Fault} : u.closed = .fault f ↔ u.state = .failed ∧ f = .notEnabled := by
  simp only [Snd.closed, require_eq_fault]
  cases u.state <;> simp

/-- `S.CANCEL` (R168). -/
theorem Snd.cancel_eq_next {u v : Snd} : u.cancel = .next v ↔ u.state ≠ .failed ∧ v = u.raise .cancelled := by
  simp only [Snd.cancel, require_eq_next, Host.Outcome.next.injEq, eq_comm (b := v)]
  cases u.state <;> simp

theorem Snd.cancel_eq_fault {u : Snd} {f : Fault} : u.cancel = .fault f ↔ u.state = .failed ∧ f = .notEnabled := by
  simp only [Snd.cancel, require_eq_fault]
  cases u.state <;> simp

/-! ## Unit RCV -/

/-- The class a datagram is rejected with, in the order malformed, checksum, sequence; none if it is accepted (R192). -/
def Rcv.rejection (u : Rcv) (d : Bytes) : Option ErrorCode :=
  match decodeFrame u.cfg.maxPayload.toNat d with
  | .malformed => some .malformed
  | .parsed _ _ false => some .checksumMismatch
  | .parsed q _ true => if q = u.expected then none else some .sequenceMismatch

/-- `R.FRAME` (R192) has a next unit in exactly two ways, both in RUN: a rejection or an acceptance. -/
theorem Rcv.frameArrived_eq_next {d : Bytes} {u v : Rcv} : u.frameArrived d = .next v ↔
    u.state = .run ∧
      ((∃ e, u.rejection d = some e ∧ v = ({ u with idleCount := 0 } : Rcv).reject e)
      ∨ (∃ p, decodeFrame u.cfg.maxPayload.toNat d = .parsed u.expected p true
        ∧ v = ({ u with idleCount := 0 } : Rcv).accept u.expected p)) := by
  simp only [Rcv.frameArrived, require_eq_next, beq_iff_eq]
  refine and_congr_right fun _ => ?_
  cases h : decodeFrame u.cfg.maxPayload.toNat d with
  | malformed => simp [Rcv.rejection, h, eq_comm]
  | parsed q p ok =>
    cases ok with
    | false => simp [Rcv.rejection, h, eq_comm]
    | true =>
      by_cases hq : q = u.expected
      · subst hq; simp [Rcv.rejection, h, seqMatch, eq_comm]
      · have : seqMatch q u.expected = false := by simpa [seqMatch] using hq
        simp [Rcv.rejection, h, this, hq, eq_comm]

theorem Rcv.frameArrived_eq_fault {d : Bytes} {u : Rcv} {f : Fault} : u.frameArrived d = .fault f ↔
    u.state ≠ .run ∧ f = .notEnabled := by
  simp only [Rcv.frameArrived, require_eq_fault, beq_iff_eq, beq_eq_false_iff_ne]
  cases h : decodeFrame u.cfg.maxPayload.toNat d with
  | malformed => simp
  | parsed q p ok => cases ok <;> cases h' : seqMatch q u.expected <;> simp [h']

/-- `R.TIMEOUT` (R198) has a next unit in exactly three ways, all in RUN. -/
theorem Rcv.timedOut_eq_next {u v : Rcv} : u.timedOut = .next v ↔
    u.state = .run ∧
      ((u.cfg.idleLimit = 0 ∧ v = u.classify .channelTimeout)
      ∨ (0 < u.cfg.idleLimit ∧ u.idleCount + 1 = u.cfg.idleLimit
        ∧ v = { u.classify .channelTimeout with idleCount := u.idleCount + 1, state := .done })
      ∨ (0 < u.cfg.idleLimit ∧ u.idleCount + 1 ≠ u.cfg.idleLimit
        ∧ v = { u.classify .channelTimeout with idleCount := u.idleCount + 1 })) := by
  simp only [Rcv.timedOut, require_eq_next, beq_iff_eq]
  refine and_congr_right fun _ => ?_
  by_cases h : 0 < u.cfg.idleLimit
  · by_cases h2 : u.idleCount + 1 = u.cfg.idleLimit
    · simp [h, h2, idleReached, Nat.pos_iff_ne_zero.mp h, eq_comm]
    · have : idleReached u.cfg (u.idleCount + 1) = false := by simpa [idleReached] using h2
      simp [h, h2, this, Nat.pos_iff_ne_zero.mp h, eq_comm]
  · have h0 : u.cfg.idleLimit = 0 := by omega
    simp [h0, eq_comm]

theorem Rcv.timedOut_eq_fault {u : Rcv} {f : Fault} : u.timedOut = .fault f ↔ u.state ≠ .run ∧ f = .notEnabled := by
  simp only [Rcv.timedOut, require_eq_fault, beq_iff_eq, beq_eq_false_iff_ne]
  by_cases h : 0 < u.cfg.idleLimit
  · cases h2 : idleReached u.cfg (u.idleCount + 1) <;> simp [h, h2]
  · simp [h]

/-- `R.CLOSED` (R199). -/
theorem Rcv.closed_eq_next {u v : Rcv} : u.closed = .next v ↔ u.state = .run ∧ v = u.raise .channelClosed := by
  simp only [Rcv.closed, require_eq_next, beq_iff_eq, Host.Outcome.next.injEq, eq_comm (b := v)]

theorem Rcv.closed_eq_fault {u : Rcv} {f : Fault} : u.closed = .fault f ↔ u.state ≠ .run ∧ f = .notEnabled := by
  simp [Rcv.closed, require_eq_fault]

/-- `R.STOP` (R200). -/
theorem Rcv.stop_eq_next {u v : Rcv} : u.stop = .next v ↔ u.state = .run ∧ v = { u with state := .done } := by
  simp only [Rcv.stop, require_eq_next, beq_iff_eq, Host.Outcome.next.injEq, eq_comm (b := v)]

theorem Rcv.stop_eq_fault {u : Rcv} {f : Fault} : u.stop = .fault f ↔ u.state ≠ .run ∧ f = .notEnabled := by
  simp [Rcv.stop, require_eq_fault]

end Sys2Proof.Machine
end

