-- ==== Sys2Proof/Laws/Link.lean ====
section
/-! SUPPORT. Operations one after another, said once for `andThen` and `execAll`, and what a silence does to the receiver. -/

namespace Sys2Proof.Machine

@[simp] theorem andThen_next (s : State) (k : State → Out State) : andThen (.next s) k = k s := rfl

@[simp] theorem andThen_fault (f : Fault) (k : State → Out State) : andThen (.fault f) k = .fault f := rfl

theorem andThen_eq_next {o : Out State} {k : State → Out State} {t : State} :
    andThen o k = .next t ↔ ∃ s, o = .next s ∧ k s = .next t := by
  cases o <;> simp [andThen]

theorem execAll_cons (i : Instr) (is : List Instr) (s : State) : execAll (i :: is) s = andThen (exec i s) (execAll is) := rfl

theorem execAll_append (is js : List Instr) (s : State) : execAll (is ++ js) s = andThen (execAll is s) (execAll js) := by
  induction is generalizing s with
  | nil => rfl
  | cons i is ih =>
    rw [List.cons_append, execAll_cons, execAll_cons]
    cases h : exec i s with
    | next t => exact ih t
    | fault f => rfl
    | refused r => rfl

theorem exec_rTimeout (s : State) : exec .rTimeout s = s.onRcv s.rcv.timedOut := rfl

@[simp] theorem silent_zero (s : State) : silent 0 s = .next s := rfl

theorem silent_succ (n : Nat) (s : State) : silent (n + 1) s = andThen (exec .rTimeout s) (silent n) := rfl

/-- A silence that does not reach the idle limit (R198): the receiver stays in RUN and nothing is emitted. -/
theorem silent_of_fits {s : State} (n : Nat) (hr : s.rcv.state = .run)
    (h : s.rcv.cfg.idleLimit = 0 ∨ s.rcv.idleCount + n < s.rcv.cfg.idleLimit) :
    ∃ l k, silent n s = .next { s with rcv := { s.rcv with classes := l, idleCount := k } }
      ∧ (s.rcv.cfg.idleLimit = 0 ∨ k = s.rcv.idleCount + n) := by
  induction n generalizing s with
  | zero => exact ⟨s.rcv.classes, s.rcv.idleCount, rfl, .inr rfl⟩
  | succ n ih =>
    obtain ⟨l, j, hx, hj⟩ : ∃ l j, exec .rTimeout s = .next { s with rcv := { s.rcv with classes := l, idleCount := j } }
        ∧ (s.rcv.cfg.idleLimit = 0 ∨ j = s.rcv.idleCount + 1) := by
      rcases h with h | h
      · exact ⟨_, _, State.onRcv_eq_next.mpr ⟨_, Rcv.timedOut_eq_next.mpr ⟨hr, .inl ⟨h, rfl⟩⟩, rfl⟩, .inl h⟩
      · exact ⟨_, _, State.onRcv_eq_next.mpr ⟨_, Rcv.timedOut_eq_next.mpr ⟨hr, .inr (.inr ⟨by omega, by omega, rfl⟩)⟩, rfl⟩,
          .inr rfl⟩
    obtain ⟨l', k, hy, hk⟩ := ih (s := { s with rcv := { s.rcv with classes := l, idleCount := j } }) hr (by simp only; omega)
    refine ⟨l', k, ?_, by simp only at hk; omega⟩
    rw [silent_succ, hx, andThen_next, hy]

/-- A silence that reaches the idle limit ends the run in DONE (R198). -/
theorem silent_of_reaches {s : State} (n : Nat) (hr : s.rcv.state = .run)
    (h : s.rcv.idleCount + (n + 1) = s.rcv.cfg.idleLimit) :
    ∃ l, silent (n + 1) s
      = .next { s with rcv := { s.rcv with classes := l, idleCount := s.rcv.cfg.idleLimit, state := .done } } := by
  induction n generalizing s with
  | zero =>
    rw [silent_succ, exec_rTimeout, (State.onRcv_eq_next (s := s)).mpr ⟨_, Rcv.timedOut_eq_next.mpr ⟨hr, .inr (.inl ⟨by omega, h, rfl⟩)⟩, rfl⟩]
    exact ⟨_, by simp only [andThen_next, silent_zero, ← h]; rfl⟩
  | succ n ih =>
    rw [silent_succ, exec_rTimeout, (State.onRcv_eq_next (s := s)).mpr
      ⟨_, Rcv.timedOut_eq_next.mpr ⟨hr, .inr (.inr ⟨by omega, by omega, rfl⟩)⟩, rfl⟩]
    obtain ⟨l, hl⟩ := ih
      (s := { s with rcv := { s.rcv.classify .channelTimeout with idleCount := s.rcv.idleCount + 1 } }) hr (by simp; omega)
    exact ⟨l, hl⟩

/-- A sender that does not wait has no exchange to make. -/
theorem exchange_of_ne_wait {s : State} (n : Nat) (ws : List Nat) (h : s.snd.state ≠ .wait) : exchange n ws s = .next s := by
  cases n with
  | zero => rfl
  | succ n => cases hs : s.snd.state <;> simp_all [exchange]

/-- One transmission of an exchange: the frame, its silence, its acknowledgment `b`. -/
theorem exchange_round {s v w x : State} {n : Nat} {ws : List Nat} {b : Byte} (hs : s.snd.state = .wait)
    (hf : exec (.rFrame (s.snd.frames.getLastD [])) s = .next v) (hw : silent (ws.headD 0) v = .next w)
    (hb : v.rcv.acks.getLast? = some b) (ha : exec (.sAck [b]) w = .next x) :
    exchange (n + 1) ws s = exchange n ws.tail x := by
  simp only [exchange, hs, hf, hw, hb, ha, andThen_next, Option.toList_some]

/-- The parts of a chunk's delivery. -/
theorem deliverChunk_of_load {p : Silence} {c : Bytes} {s r t : State} (hr : silent p.beforeLoad s = .next r)
    (ht : exec (.sLoad c) r = .next t) : deliverChunk p c s = exchange (s.snd.cfg.maxRetry + 1) p.beforeAck t := by
  simp only [deliverChunk, hr, ht, andThen_next]

end Sys2Proof.Machine
end

