-- ==== Sys2Proof/Laws/Outputs.lean ====
section
/-! SUPPORT. What the output lists say after events are appended: the frames sent, the confirmations, the payloads delivered
and the acknowledgments sent. -/

namespace Sys2Proof.Machine

@[simp] theorem SndEvent.frame?_tx (f : Bytes) : SndEvent.frame? (.tx f) = some f := rfl
@[simp] theorem SndEvent.frame?_confirmed : SndEvent.frame? .confirmed = none := rfl
@[simp] theorem SndEvent.frame?_loadError (e : ErrorCode) : SndEvent.frame? (.loadError e) = none := rfl
@[simp] theorem RcvEvent.payload?_sink (p : Bytes) : RcvEvent.payload? (.sink p) = some p := rfl
@[simp] theorem RcvEvent.payload?_ackTx (b : Byte) : RcvEvent.payload? (.ackTx b) = none := rfl
@[simp] theorem RcvEvent.ackByte?_sink (p : Bytes) : RcvEvent.ackByte? (.sink p) = none := rfl
@[simp] theorem RcvEvent.ackByte?_ackTx (b : Byte) : RcvEvent.ackByte? (.ackTx b) = some b := rfl

/-- Transmitting a frame. -/
theorem Snd.frames_of_tx {u v : Snd} {f : Bytes} (h : v.out = u.out ++ [.tx f]) : v.frames = u.frames ++ [f] := by
  simp [Snd.frames, h]

/-- Any other output of unit SND is no transmission. -/
theorem Snd.frames_of_confirmed {u v : Snd} (h : v.out = u.out ++ [.confirmed]) : v.frames = u.frames := by
  simp [Snd.frames, h]

theorem Snd.confirmations_of_tx {u v : Snd} {f : Bytes} (h : v.out = u.out ++ [.tx f]) :
    v.confirmations = u.confirmations := by
  simp [Snd.confirmations, h]

theorem Snd.confirmations_of_confirmed {u v : Snd} (h : v.out = u.out ++ [.confirmed]) :
    v.confirmations = u.confirmations + 1 := by
  simp [Snd.confirmations, h]

/-- A rejection delivers nothing and sends one acknowledgment. -/
@[simp] theorem Rcv.delivered_reject (u : Rcv) (e : ErrorCode) : (u.reject e).delivered = u.delivered := by
  simp [Rcv.delivered]

@[simp] theorem Rcv.acks_reject (u : Rcv) (e : ErrorCode) : (u.reject e).acks = u.acks ++ [u.lastAcked] := by
  simp [Rcv.acks]

/-- An acceptance delivers one payload and sends one acknowledgment. -/
@[simp] theorem Rcv.delivered_accept (u : Rcv) (q : Byte) (p : Bytes) : (u.accept q p).delivered = u.delivered ++ [p] := by
  simp [Rcv.delivered]

@[simp] theorem Rcv.acks_accept (u : Rcv) (q : Byte) (p : Bytes) : (u.accept q p).acks = u.acks ++ [q] := by
  simp [Rcv.acks, List.filterMap_cons]

end Sys2Proof.Machine
end

