-- ==== Sys2Proof/Laws/PerInstr.lean ====
section
/-! SUPPORT. Statements made of every instruction, one lemma per constructor. Family EncodeHome: the encoding of an
instruction is presented at a port of the instance that holds the instruction's unit (10_state.md R20, 30_encoding.md R95). -/

namespace Sys2Proof.Laws.EncodeHome

def Statement (i : Instr) : Prop := (encode i).1.side = i.side

theorem ckClr (u : Side) : Statement (.ckClr u) := rfl
theorem ckAdd (u : Side) (b : Byte) : Statement (.ckAdd u b) := rfl
theorem enc (s : Byte) (p : Bytes) : Statement (.enc s p) := rfl
theorem dec (d : Bytes) : Statement (.dec d) := rfl
theorem sLoad (c : Bytes) : Statement (.sLoad c) := rfl
theorem sAck (d : Bytes) : Statement (.sAck d) := rfl
theorem sTimeout : Statement .sTimeout := rfl
theorem sClosed : Statement .sClosed := rfl
theorem sCancel : Statement .sCancel := rfl
theorem rFrame (d : Bytes) : Statement (.rFrame d) := rfl
theorem rTimeout : Statement .rTimeout := rfl
theorem rClosed : Statement .rClosed := rfl
theorem rStop : Statement .rStop := rfl
theorem frame (c s : Byte) (p : Bytes) : Statement (.frame c s p) := rfl
theorem ack (s : Byte) : Statement (.ack s) := rfl

end Sys2Proof.Laws.EncodeHome
end

