-- ==== Sys2Proof/Laws/Step.lean ====
section
/-! SUPPORT. What exec and step can do, said once. -/

namespace Sys2Proof.Machine

/-! ## exec -/

/-- An operation of unit SND is a function of that unit alone, placed in the state (R21, R66). -/
theorem exec_onSnd {i : Instr} (h : unitOf i = .snd) : ∃ op : Snd → Out Snd, ∀ s, exec i s = s.onSnd (op s.snd) := by
  cases i with
  | sLoad c => exact ⟨Snd.load c, fun _ => rfl⟩
  | sAck d => exact ⟨Snd.ackArrived d, fun _ => rfl⟩
  | ack q => exact ⟨Snd.ackArrived [q], fun _ => rfl⟩
  | sTimeout => exact ⟨Snd.timedOut, fun _ => rfl⟩
  | sClosed => exact ⟨Snd.closed, fun _ => rfl⟩
  | sCancel => exact ⟨Snd.cancel, fun _ => rfl⟩
  | _ => cases h

/-- An operation of unit RCV is a function of that unit alone, placed in the state (R21, R66). -/
theorem exec_onRcv {i : Instr} (h : unitOf i = .rcv) : ∃ op : Rcv → Out Rcv, ∀ s, exec i s = s.onRcv (op s.rcv) := by
  cases i with
  | rFrame d => exact ⟨Rcv.frameArrived d, fun _ => rfl⟩
  | frame c q p => exact ⟨Rcv.frameArrived (assemble c q p), fun _ => rfl⟩
  | rTimeout => exact ⟨Rcv.timedOut, fun _ => rfl⟩
  | rClosed => exact ⟨Rcv.closed, fun _ => rfl⟩
  | rStop => exact ⟨Rcv.stop, fun _ => rfl⟩
  | _ => cases h

/-- What a next state of exec looks like: one unit of it is new. -/
theorem exec_eq_next {i : Instr} {s t : State} (h : exec i s = .next t) :
    (∃ u v, t = s.putCk u v ∧ unitOf i = .ck ∧ i.side = u)
    ∨ (∃ r, t = { s with encOut := s.encOut ++ [r] } ∧ unitOf i = .codec ∧ i.side = .sender)
    ∨ (∃ r, t = { s with decOut := s.decOut ++ [r] } ∧ unitOf i = .codec ∧ i.side = .receiver)
    ∨ (∃ u, t = { s with snd := u } ∧ unitOf i = .snd ∧ i.side = .sender)
    ∨ (∃ u, t = { s with rcv := u } ∧ unitOf i = .rcv ∧ i.side = .receiver) := by
  have hs : unitOf i = .snd → ∃ u, t = { s with snd := u } := fun hu => by
    obtain ⟨op, hop⟩ := exec_onSnd hu
    obtain ⟨u, -, ht⟩ := State.onSnd_eq_next.mp (hop s ▸ h)
    exact ⟨u, ht⟩
  have hr : unitOf i = .rcv → ∃ u, t = { s with rcv := u } := fun hu => by
    obtain ⟨op, hop⟩ := exec_onRcv hu
    obtain ⟨u, -, ht⟩ := State.onRcv_eq_next.mp (hop s ▸ h)
    exact ⟨u, ht⟩
  cases i with
  | ckClr u => exact .inl ⟨u, 0, by simpa [exec, execCkClr, eq_comm] using h, rfl, rfl⟩
  | ckAdd u b => exact .inl ⟨u, ckSum (s.ck u) b, by simpa [exec, execCkAdd, eq_comm] using h, rfl, rfl⟩
  | enc q p => exact .inr (.inl ⟨_, by simpa [exec, execEnc] using h.symm, rfl, rfl⟩)
  | dec d => exact .inr (.inr (.inl ⟨_, by simpa [exec, execDec] using h.symm, rfl, rfl⟩))
  | sLoad _ | sAck _ | ack _ | sTimeout | sClosed | sCancel =>
    obtain ⟨u, ht⟩ := hs rfl
    exact .inr (.inr (.inr (.inl ⟨u, ht, rfl, rfl⟩)))
  | rFrame _ | frame _ _ _ | rTimeout | rClosed | rStop =>
    obtain ⟨u, ht⟩ := hr rfl
    exact .inr (.inr (.inr (.inr ⟨u, ht, rfl, rfl⟩)))

/-- No operation takes anything that is presented. -/
theorem exec_requests {i : Instr} {s t : State} (h : exec i s = .next t) : t.requests = s.requests := by
  rcases exec_eq_next h with ⟨u, v, rfl, -⟩ | ⟨r, rfl, -⟩ | ⟨r, rfl, -⟩ | ⟨u, rfl, -⟩ | ⟨u, rfl, -⟩ <;> simp

/-- A stop of exec is "not enabled", or the retransmission of a byte that holds no value. -/
theorem exec_eq_fault {i : Instr} {s : State} {f : Fault} (h : exec i s = .fault f) :
    f = .notEnabled ∨ (f = .noValue ∧ s.snd.state = .wait ∧ s.snd.pending = none) := by
  cases i with
  | ckClr u => cases h
  | ckAdd u b => cases h
  | enc q p => cases h
  | dec d => cases h
  | sLoad c => exact .inl (Snd.load_eq_fault.mp (State.onSnd_eq_fault.mp h)).2
  | sAck d =>
    rcases Snd.ackArrived_eq_fault.mp (State.onSnd_eq_fault.mp h) with ⟨-, h⟩ | ⟨hw, -, h⟩
    · exact .inl h
    · obtain ⟨h, -, hp⟩ := Snd.retry_eq_fault.mp h
      exact .inr ⟨h, hw, hp⟩
  | ack q =>
    rcases Snd.ackArrived_eq_fault.mp (State.onSnd_eq_fault.mp h) with ⟨-, h⟩ | ⟨hw, -, h⟩
    · exact .inl h
    · obtain ⟨h, -, hp⟩ := Snd.retry_eq_fault.mp h
      exact .inr ⟨h, hw, hp⟩
  | sTimeout =>
    rcases Snd.timedOut_eq_fault.mp (State.onSnd_eq_fault.mp h) with ⟨-, h⟩ | ⟨hw, h⟩
    · exact .inl h
    · obtain ⟨h, -, hp⟩ := Snd.retry_eq_fault.mp h
      exact .inr ⟨h, hw, hp⟩
  | sClosed => exact .inl (Snd.closed_eq_fault.mp (State.onSnd_eq_fault.mp h)).2
  | sCancel => exact .inl (Snd.cancel_eq_fault.mp (State.onSnd_eq_fault.mp h)).2
  | rFrame d => exact .inl (Rcv.frameArrived_eq_fault.mp (State.onRcv_eq_fault.mp h)).2
  | frame c q p => exact .inl (Rcv.frameArrived_eq_fault.mp (State.onRcv_eq_fault.mp h)).2
  | rTimeout => exact .inl (Rcv.timedOut_eq_fault.mp (State.onRcv_eq_fault.mp h)).2
  | rClosed => exact .inl (Rcv.closed_eq_fault.mp (State.onRcv_eq_fault.mp h)).2
  | rStop => exact .inl (Rcv.stop_eq_fault.mp (State.onRcv_eq_fault.mp h)).2

/-! ## Datagrams as operations -/

/-- No operation is refused: every instruction has its meaning, and only a reset can be refused (R261). -/
theorem exec_ne_refused {i : Instr} {s : State} {r : Refusal} : exec i s ≠ .refused r := by
  have req : ∀ {σ : Type} (c : Bool) (o : Out σ), o ≠ .refused r → require c o ≠ .refused r := by
    intro σ c o h; cases c <;> simp [require, h]
  have snd : ∀ o : Out Snd, o ≠ .refused r → s.onSnd o ≠ .refused r := by
    intro o h; cases o <;> simp_all [State.onSnd]
  have rcv : ∀ o : Out Rcv, o ≠ .refused r → s.onRcv o ≠ .refused r := by
    intro o h; cases o <;> simp_all [State.onRcv]
  have ack : ∀ d, s.snd.ackArrived d ≠ .refused r := fun d => req _ _ (by
    cases ackMatch d s.snd.nextSequence <;> simp [Snd.retry_ne_refused])
  have frm : ∀ d, s.rcv.frameArrived d ≠ .refused r := fun d => req _ _ (by
    simp only
    split
    · simp
    · simp
    · split <;> simp)
  cases i with
  | ckClr _ | ckAdd _ _ | enc _ _ | dec _ => simp [exec, execCkClr, execCkAdd, execEnc, execDec]
  | sLoad c => exact snd _ (req _ _ (by split <;> simp))
  | sAck d => exact snd _ (ack d)
  | ack q => exact snd _ (ack [q])
  | sTimeout => exact snd _ (req _ _ Snd.retry_ne_refused)
  | sClosed | sCancel => exact snd _ (req _ _ (by simp))
  | rFrame d => exact rcv _ (frm d)
  | frame c q p => exact rcv _ (frm (assemble c q p))
  | rTimeout => exact rcv _ (req _ _ (by simp only; split <;> [(split <;> simp); simp]))
  | rClosed | rStop => exact rcv _ (req _ _ (by simp))

/-- A datagram at the receiver's end does what R.FRAME of its bytes does, in the wire format or not (R237). -/
theorem exec_decodeFrameLink (d : Bytes) (s : State) : exec (decodeFrameLink d) s = exec (.rFrame d) s := by
  rcases d with _ | ⟨c, _ | ⟨q, _ | ⟨hi, _ | ⟨lo, p⟩⟩⟩⟩ <;> try rfl
  simp only [decodeFrameLink]
  split
  · rename_i h
    simp [exec, execFrame, execRFrame, assemble, h, lengthHi_lengthOf, lengthLo_lengthOf]
  · rfl

/-- A datagram at the sender's end does what S.ACK of its bytes does, in the wire format or not (R236). -/
theorem exec_decodeAckLink (d : Bytes) (s : State) : exec (decodeAckLink d) s = exec (.sAck d) s := by
  rcases d with _ | ⟨b, _ | ⟨c, d⟩⟩ <;> rfl

/-! ## Requests -/

/-- Only a reset request is presented as a reset. -/
theorem present_eq_reset {r : Request} {q : ResetReq} : present r = .reset q ↔ r = .reset q := by
  have hb : ∀ p bs, presentBytes p bs ≠ .reset q := fun p bs => by
    unfold presentBytes
    split <;> simp
  cases r with
  | op u bs => simp [present, hb]
  | received u x => cases x <;> simp [present, hb]
  | sent u x => cases x <;> simp [present]
  | reset q' => simp [present]

/-- A request with a next state is an operation, nothing for a unit, or a reset. -/
theorem attempt_eq_next {r : Request} {s t : State} (h : attempt r s = .next t) :
    (∃ i, present r = .instr i ∧ exec i s = .next t) ∨ (present r = .nothing ∧ t = s)
    ∨ ∃ q, r = .reset q ∧ resetUnit q s = .next t := by
  simp only [attempt] at h
  split at h
  · rename_i i hi
    exact .inl ⟨i, hi, h⟩
  · rename_i hn
    cases h
    exact .inr (.inl ⟨hn, rfl⟩)
  · rename_i q hq
    exact .inr (.inr ⟨q, present_eq_reset.mp hq, h⟩)
  · cases h

/-- What a reset leaves: one unit at its reset value. -/
theorem resetUnit_eq_next {q : ResetReq} {s t : State} : resetUnit q s = .next t ↔
    (∃ p, q = .snd p ∧ paramsLegal p = true ∧ t = { s with snd := Snd.reset p })
    ∨ (∃ p, q = .rcv p ∧ paramsLegal p = true ∧ t = { s with rcv := Rcv.reset p })
    ∨ (∃ u, q = .ck u ∧ t = s.putCk u 0) := by
  cases q with
  | snd p => cases h : paramsLegal p <;> simp [resetUnit, h, eq_comm (b := t)]
  | rcv p => cases h : paramsLegal p <;> simp [resetUnit, h, eq_comm (b := t)]
  | ck u => simp [resetUnit, eq_comm (b := t)]

/-- Serving a request takes nothing else that is presented. -/
theorem attempt_requests {r : Request} {s t : State} (h : attempt r s = .next t) : t.requests = s.requests := by
  rcases attempt_eq_next h with ⟨i, -, h⟩ | ⟨-, rfl⟩ | ⟨q, -, h⟩
  · exact exec_requests h
  · rfl
  · rcases resetUnit_eq_next.mp h with ⟨p, -, -, rfl⟩ | ⟨p, -, -, rfl⟩ | ⟨u, -, rfl⟩ <;> simp

/-- A request stops as "not enabled", or on a byte that holds no value. -/
theorem attempt_eq_fault {r : Request} {s : State} {f : Fault} (h : attempt r s = .fault f) :
    f.holds = true ∨ (f = .noValue ∧ s.snd.state = .wait ∧ s.snd.pending = none) := by
  simp only [attempt] at h
  split at h
  · rcases exec_eq_fault h with rfl | h
    · exact .inl rfl
    · exact .inr h
  · cases h
  · rename_i q _
    cases q with
    | snd p => cases hp : paramsLegal p <;> simp [resetUnit, hp] at h
    | rcv p => cases hp : paramsLegal p <;> simp [resetUnit, hp] at h
    | ck u => cases h
  · cases h
    exact .inl rfl

/-! ## Serving the ports -/

theorem serveFrom_eq_next {s t : State} {held todo : List Request} (h : serveFrom s held todo = .next t) :
    (held = [] ∧ todo = [] ∧ t = s)
    ∨ ∃ pre r post, held ++ todo = pre ++ r :: post ∧ attempt r (s.presenting (pre ++ post)) = .next t := by
  induction todo generalizing held with
  | nil =>
    cases held with
    | nil => exact .inl ⟨rfl, rfl, by simpa [serveFrom, eq_comm] using h⟩
    | cons r rs => exact .inr ⟨[], r, rs, by simp, h⟩
  | cons r todo ih =>
    simp only [serveFrom] at h
    split at h
    · split at h
      · rcases ih h with ⟨h1, -⟩ | ⟨pre, q, post, h1, h2⟩
        · simp at h1
        · exact .inr ⟨pre, q, post, by simpa using h1, h2⟩
      · cases h
    · rename_i v hv
      cases h
      exact .inr ⟨held, r, todo, rfl, hv⟩
    · cases h

/-- A step that has a next state serves one request, the others staying presented, or waits with nothing presented. -/
theorem step_eq_next {s t : State} (h : step s = .next t) :
    (s.requests = [] ∧ t = s)
    ∨ ∃ pre r post, s.requests = pre ++ r :: post ∧ attempt r (s.presenting (pre ++ post)) = .next t := by
  rcases serveFrom_eq_next h with ⟨-, h1, h2⟩ | ⟨pre, r, post, h1, h2⟩
  · exact .inl ⟨h1, h2⟩
  · exact .inr ⟨pre, r, post, by simpa using h1, h2⟩

theorem serveFrom_eq_fault {s : State} {f : Fault} {held todo : List Request} (h : serveFrom s held todo = .fault f) :
    ∃ pre r post, held ++ todo = pre ++ r :: post ∧ attempt r (s.presenting (pre ++ post)) = .fault f := by
  induction todo generalizing held with
  | nil =>
    cases held with
    | nil => cases h
    | cons r rs => exact ⟨[], r, rs, by simp, h⟩
  | cons r todo ih =>
    simp only [serveFrom] at h
    split at h
    · rename_i g hg
      split at h
      · obtain ⟨pre, q, post, h1, h2⟩ := ih h
        exact ⟨pre, q, post, by simpa using h1, h2⟩
      · cases h
        exact ⟨held, r, todo, rfl, hg⟩
    · cases h
    · cases h

/-- A step that stops, stops for the reason of one of the requests. -/
theorem step_eq_fault {s : State} {f : Fault} (h : step s = .fault f) :
    ∃ pre r post, s.requests = pre ++ r :: post ∧ attempt r (s.presenting (pre ++ post)) = .fault f := by
  simpa using serveFrom_eq_fault h

/-- Requests that are not enabled are passed over. -/
theorem serveFrom_held {s : State} {held pre todo : List Request}
    (h : ∀ (a : List Request) (r : Request) (b : List Request), pre = a ++ r :: b →
      ∃ f, attempt r (s.presenting (held ++ a ++ (b ++ todo))) = .fault f ∧ f.holds = true) :
    serveFrom s held (pre ++ todo) = serveFrom s (held ++ pre) todo := by
  induction pre generalizing held with
  | nil => simp
  | cons r pre ih =>
    obtain ⟨f, hf, hh⟩ := h [] r pre rfl
    simp only [List.append_nil] at hf
    simp only [List.cons_append, serveFrom, hf, hh]
    rw [ih (held := held ++ [r])]
    · simp
    · intro a q b hab
      obtain ⟨g, hg, hg'⟩ := h (r :: a) q b (by simp [hab])
      exact ⟨g, by simpa using hg, hg'⟩

end Sys2Proof.Machine
end

