-- ==== Sys2Proof/Tests/Slice0.lean ====
section
/-! SUPPORT. The model's own tests. Expected values are those of spec/95_test_vectors.md (V1 to V6, P1 to P7), which computes
them from the rules by hand; words are written out from the tables of 30_encoding.md R90, R94 to R96. The witnesses at the end
show, for each statement with hypotheses, concrete data that meet them. -/

open Sys2Proof Sys2Proof.Machine

namespace Sys2Proof.Tests

/-! ## Small states -/

/-- The configuration of V4 and V5. -/
def p5 : Params := { maxPayload := 5, seqMod := 256, startSeq := 0, maxRetry := 2, idleLimit := 3 }

/-- The reduced modulus of V4 and V5, at its last number. -/
def p4 : Params := { maxPayload := 2, seqMod := 4, startSeq := 3, maxRetry := 0, idleLimit := 0 }

def hello : Bytes := [0x48, 0x45, 0x4C, 0x4C, 0x4F]

/-- Frame 0 of P1. -/
def frame0 : Bytes := [0x75, 0x00, 0x00, 0x05, 0x48, 0x45, 0x4C, 0x4C, 0x4F]

def idle5 : State := State.resetWith p5 p5

/-- The state after operations, if they have a step. -/
def after (is : List Instr) (s : State) : State :=
  match execAll is s with
  | .next t => t
  | .fault _ => s
  | .refused _ => s

def wait5 : State := after [.sLoad hello] idle5
def last5 : State := after [.sLoad hello, .sTimeout, .sTimeout] idle5
def failed5 : State := after [.sCancel, .rClosed] idle5
def wait4 : State := after [.sLoad [0x47, 0x48]] (State.resetWith p4 p4)

/-- The registers in the order of V4. -/
def sRow (s : State) : SndState × ErrorCode × Nat × Nat × Bool :=
  (s.snd.state, s.snd.err, s.snd.nextSequence.toNat, s.snd.retryCount, s.snd.pendValid)

/-- The registers in the order of V5. -/
def rRow (s : State) : RcvState × ErrorCode × Nat × Nat × Nat :=
  (s.rcv.state, s.rcv.err, s.rcv.expected.toNat, s.rcv.lastAcked.toNat, s.rcv.idleCount)

/-! ## Well-formedness -/

/-- The length field is 16 bits wide: a payload of 65536 bytes is refused, one of 65535 is not. -/
theorem test_wellFormed_refuses_long_payload (c q : Byte) (p : Bytes) (h : p.length = 65536) :
    (Instr.frame c q p).wellFormed = false := by
  simp [Instr.wellFormed, h]

theorem test_wellFormed_admits_longest_payload (c q : Byte) (p : Bytes) (h : p.length = 65535) :
    (Instr.frame c q p).wellFormed = true := by
  simp [Instr.wellFormed, h]

/-! ## Decoding (R90, R94 to R97, R100) -/

theorem test_decode_ckClr : decode (.op .receiver) [0b00000000] = .instr (.ckClr .receiver) := by decide
theorem test_decode_ckAdd : decode (.op .sender) [0b00000001, 0b10000001] = .instr (.ckAdd .sender 0x81) := by decide
theorem test_decode_enc : decode (.op .sender) [0b00010000, 0x07] = .instr (.enc 0x07 []) := by decide
theorem test_decode_dec : decode (.op .receiver) [0b00010001, 0x75] = .instr (.dec [0x75]) := by decide
theorem test_decode_sLoad : decode (.op .sender) [0b00100000, 0x44] = .instr (.sLoad [0x44]) := by decide
theorem test_decode_sAck : decode (.op .sender) [0b00100001, 0x01, 0x02] = .instr (.sAck [0x01, 0x02]) := by decide
theorem test_decode_sTimeout : decode (.op .sender) [0b00100010] = .instr .sTimeout := by decide
theorem test_decode_sClosed : decode (.op .sender) [0b00100011] = .instr .sClosed := by decide
theorem test_decode_sCancel : decode (.op .sender) [0b00100100] = .instr .sCancel := by decide
theorem test_decode_rFrame : decode (.op .receiver) [0b00110000, 0x00] = .instr (.rFrame [0x00]) := by decide
theorem test_decode_rTimeout : decode (.op .receiver) [0b00110001] = .instr .rTimeout := by decide
theorem test_decode_rClosed : decode (.op .receiver) [0b00110010] = .instr .rClosed := by decide
theorem test_decode_rStop : decode (.op .receiver) [0b00110011] = .instr .rStop := by decide
theorem test_decode_frame : decode (.link .receiver) [0x65, 0x01, 0x00, 0x05, 0x20, 0x57, 0x4F, 0x52, 0x4C]
    = .instr (.frame 0x65 0x01 [0x20, 0x57, 0x4F, 0x52, 0x4C]) := by decide
theorem test_decode_ack : decode (.link .sender) [0xFF] = .instr (.ack 0xFF) := by decide

/-- Reserved codes, operands of the wrong length, a unit that stands at the other end, and nothing at all. -/
theorem test_decode_rejects :
    decode (.op .sender) [0x02] = .rejected (.reservedCode 0x02)
    ∧ decode (.op .sender) [0x00, 0x00] = .rejected (.operandForm 0x00)
    ∧ decode (.op .sender) [0x01, 0x00, 0x00] = .rejected (.operandForm 0x01)
    ∧ decode (.op .sender) [0x10] = .rejected (.operandForm 0x10)
    ∧ decode (.op .sender) [0x33] = .rejected (.noSuchUnit 0x33)
    ∧ decode (.op .receiver) [] = .rejected .noOpcode := by decide

/-- A datagram that is not in its wire format is presented all the same (R236, R237). -/
theorem test_decode_other_datagrams :
    decode (.link .receiver) [0x75, 0x00, 0x00] = .instr (.rFrame [0x75, 0x00, 0x00])
    ∧ decode (.link .receiver) [0x00, 0x00, 0x00, 0x01] = .instr (.rFrame [0x00, 0x00, 0x00, 0x01])
    ∧ decode (.link .sender) [] = .instr (.sAck []) ∧ decode (.link .sender) [1, 1] = .instr (.sAck [1, 1]) := by decide

/-- The length field 0x012C of V2, most significant byte first. -/
theorem test_encode_length_bytes (p : Bytes) (h : p.length = 300) :
    encode (.frame 0x00 0xFF p) = (.link .receiver, 0x00 :: 0xFF :: 0x01 :: 0x2C :: p) := by
  simp [encode, h, lengthHi, lengthLo]

theorem test_table_words :
    decodeTableWord 8 0x00 = some (.ckClr .sender) ∧ decodeTableWord 8 0x01 = some (.ckAdd .sender 0)
    ∧ decodeTableWord 8 0x10 = some (.enc 0 []) ∧ decodeTableWord 8 0x11 = some (.dec [])
    ∧ decodeTableWord 8 0x20 = some (.sLoad []) ∧ decodeTableWord 8 0x21 = some (.sAck [])
    ∧ decodeTableWord 8 0x22 = some .sTimeout ∧ decodeTableWord 8 0x23 = some .sClosed
    ∧ decodeTableWord 8 0x24 = some .sCancel ∧ decodeTableWord 8 0x30 = some (.rFrame [])
    ∧ decodeTableWord 8 0x31 = some .rTimeout ∧ decodeTableWord 8 0x32 = some .rClosed
    ∧ decodeTableWord 8 0x33 = some .rStop ∧ decodeTableWord 32 0x01000201 = some (.frame 0x01 0x02 [0x00])
    ∧ decodeTableWord 8 0xA5 = some (.ack 0xA5) := by decide

/-- A table word's instruction is the next one that step runs. -/
theorem test_withFetchWord :
    step (State.reset.withFetchWord 8 0x20) = exec (.sLoad []) State.reset
    ∧ step (State.reset.withFetchWord 8 0x31) = exec .rTimeout State.reset
    ∧ step (State.reset.withFetchWord 32 0x00000700) = exec (.frame 0x00 0x07 []) State.reset := ⟨rfl, rfl, rfl⟩

/-! ## Meanings -/

theorem test_ckClr : (after [.ckAdd .sender 0x05, .ckClr .sender] idle5).ckSnd = 0 := by decide

theorem test_ckAdd_vectors : ckSum 0 0xFE = 254 ∧ ckSum 0 0xFF = 0 ∧ ckSum 1 0xFF = 1 ∧ ckSum 254 0x01 = 0 ∧ ckSum 254 0x02 = 1
    ∧ ckSum 254 0xFE = 253 ∧ ckSum 254 0xFF = 254 ∧ ckSum 217 0x4C = 38 := by decide

theorem test_ckAdd_other_instance : (after [.ckAdd .receiver 0x4C] idle5).ckRcv = 0x4C
    ∧ (after [.ckAdd .receiver 0x4C] idle5).ckSnd = 0 := by decide

theorem test_enc_hello : (after [.enc 0 hello, .enc 7 []] idle5).encOut = [.frame frame0, .frame [0x00, 0x07, 0x00, 0x00]] := by decide

theorem test_enc_too_large : (after [.enc 0 (hello ++ [0x21])] idle5).encOut = [.payloadTooLarge] := by decide

theorem test_dec_malformed : (after [.dec [], .dec [0x00, 0x00, 0x00, 0x01], .dec [0x75, 0, 0, 6, 0x48, 0x45, 0x4C, 0x4C, 0x4F, 0],
    .dec [0x75, 0, 5, 0, 0x48, 0x45, 0x4C, 0x4C, 0x4F]] idle5).decOut = [.malformed, .malformed, .malformed, .malformed] := by decide

theorem test_dec_parsed : (after [.dec frame0, .dec [0xFF, 0x07, 0x00, 0x00], .dec [0x00, 0x07, 0x00, 0x01, 0xFF]] idle5).decOut
    = [.parsed 0 hello true, .parsed 7 [] false, .parsed 7 [0xFF] true] := by decide

theorem test_sLoad_hello : sRow wait5 = (.wait, .noError, 0, 0, true) ∧ wait5.snd.pendLen = 9
    ∧ wait5.snd.out = [.tx frame0] ∧ wait5.snd.pending = some frame0 := by decide

theorem test_sLoad_too_large : sRow (after [.sLoad (hello ++ [0x21])] idle5) = sRow idle5
    ∧ (after [.sLoad (hello ++ [0x21])] idle5).snd.out = [.loadError .payloadTooLarge] := by decide

theorem test_sAck_confirms_and_wraps : sRow (after [.sAck [0x03]] wait4) = (.idle, .noError, 0, 0, false) := by decide

theorem test_sAck_two_bytes_retry : sRow (after [.sAck [0x00, 0x00]] wait5) = (.wait, .noError, 0, 1, true)
    ∧ (after [.sAck [0x00, 0x00]] wait5).snd.out = [.tx frame0, .tx frame0] := by decide

theorem test_sTimeout_retransmits : sRow (after [.sTimeout] wait5) = (.wait, .noError, 0, 1, true)
    ∧ (after [.sTimeout] wait5).snd.frames = [frame0, frame0] := by decide

theorem test_sTimeout_exhausts : sRow (after [.sTimeout] last5) = (.failed, .deliveryFailed, 0, 3, true)
    ∧ (after [.sTimeout] last5).snd.frames.length = 3 := by decide

theorem test_sClosed : sRow (after [.sClosed] wait5) = (.failed, .channelClosed, 0, 0, true) := by decide
theorem test_sCancel : sRow (after [.sCancel] wait5) = (.failed, .cancelled, 0, 0, true) := by decide

theorem test_rFrame_accepts : rRow (after [.rFrame frame0] idle5) = (.run, .noError, 1, 0, 0)
    ∧ (after [.rFrame frame0] idle5).rcv.out = [.sink hello, .ackTx 0x00] := by decide

theorem test_rFrame_checksum_first : (after [.rFrame [0x9A, 0x05, 0, 5, 0x20, 0x57, 0x4F, 0x52, 0x4C]] idle5).rcv.classes = [.checksumMismatch]
    ∧ (after [.rFrame [0x9A, 0x05, 0, 5, 0x20, 0x57, 0x4F, 0x52, 0x4C]] idle5).rcv.out = [.ackTx 0xFF] := by decide

theorem test_rTimeout_ends_at_limit : rRow (after [.rTimeout, .rTimeout] idle5) = (.run, .noError, 0, 255, 2)
    ∧ rRow (after [.rTimeout, .rTimeout, .rTimeout] idle5) = (.done, .noError, 0, 255, 3) := by decide

theorem test_rTimeout_keeps_waiting : rRow (after [.rTimeout] (State.resetWith p4 p4)) = (.run, .noError, 3, 2, 0) := by decide

theorem test_rClosed : rRow (after [.rClosed] idle5) = (.failed, .channelClosed, 0, 255, 0) := by decide
theorem test_rStop : rRow (after [.rStop] idle5) = (.done, .noError, 0, 255, 0) := by decide

theorem test_frame_wraps : rRow (after [.frame 0x8F 0x03 [0x47, 0x48]] (State.resetWith p4 p4)) = (.run, .noError, 0, 3, 0) := by decide

/-- Sequence bytes are compared, not reduced modulo SEQ_MOD. -/
theorem test_frame_not_reduced : (after [.frame 0x83 0x07 [0x41, 0x42]] (State.resetWith p4 p4)).rcv.out = [.ackTx 0x02] := by decide

theorem test_ack_confirms : sRow (after [.ack 0x00] wait5) = (.idle, .noError, 1, 0, false) := by decide
theorem test_ack_not_reduced : sRow (after [.ack 0x07] wait4) = (.failed, .deliveryFailed, 3, 1, true) := by decide

/-- V6. -/
theorem test_reset : sRow State.reset = (.idle, .noError, 0, 0, false) ∧ rRow State.reset = (.run, .noError, 0, 255, 0)
    ∧ sRow (State.resetWith p4 p4) = (.idle, .noError, 3, 0, false) ∧ rRow (State.resetWith p4 p4) = (.run, .noError, 3, 2, 0)
    ∧ State.reset.snd.pendLen = 0 ∧ State.reset.ckSnd = 0 ∧ State.reset.ckRcv = 0 := by decide

/-- V4, the table of CHUNKS. -/
theorem test_chunks : chunks 5 [] = [] ∧ chunks 5 hello = [hello] ∧ chunks 2 hello = [[0x48, 0x45], [0x4C, 0x4C], [0x4F]] := by decide

/-- P3: the answers that are left over stay unused. -/
theorem test_send_fails :
    (match send hello idle5 [.timeout, .datagram [0xFF], .timeout, .datagram [0x00]] with
      | .err e t rest => (e, sRow t, rest)
      | _ => (.noError, sRow idle5, [])) = (.deliveryFailed, (.failed, .deliveryFailed, 0, 3, true), [.datagram [0x00]]) := by
  decide

/-! ## Serving the ports -/

/-- A request that is not enabled stays presented while the next one is served. -/
theorem test_step_holds :
    step (idle5.presenting [.op .sender [0x21, 0x00], .op .sender [0x20]])
      = exec (.sLoad []) (idle5.presenting [.op .sender [0x21, 0x00]]) := rfl

theorem test_step_nothing : step idle5 = .next idle5 := rfl

/-- The transport adapter: a closed channel reported by `send` is S.CLOSED; a send that succeeded is nothing (R236, R238). -/
theorem test_step_adapter :
    step (wait5.presenting [.sent .sender .closed]) = exec .sClosed wait5
    ∧ step (wait5.presenting [.sent .sender .ok]) = .next wait5 := ⟨rfl, rfl⟩

/-! ## Witnesses: data that meet the hypotheses of the statements

Each is named after its statement, and gives data for every clause, at the ends of the ranges the clause speaks of. -/

theorem witness_DecodeOfEncodeIsTheInstruction : (Instr.frame 0xFF 0x00 []).wellFormed = true := rfl

theorem witness_EncodeOfDecodeIsTheBytes :
    decode (.op .sender) [0x10, 0x07] = .instr (.enc 0x07 [])
    ∧ decode (.link .receiver) [0x00, 0x07, 0x00, 0x00] = .instr (.frame 0x00 0x07 [])
    ∧ decode (.link .sender) [0x00] = .instr (.ack 0x00) := by decide

theorem witness_ReservedEncodingsAreNotEnabled :
    (0xFF : Byte) ∉ [(0x00 : Byte), 0x01, 0x10, 0x11, 0x20, 0x21, 0x22, 0x23, 0x24, 0x30, 0x31, 0x32, 0x33]
    ∧ ((0x33 : Byte) ∈ [(0x00 : Byte), 0x22, 0x23, 0x24, 0x31, 0x32, 0x33] ∧ [(0x00 : Byte)].length ≠ 0)
    ∧ ([] : Bytes).length ≠ 1 ∧ [(0x00 : Byte), 0x00].length ≠ 1
    ∧ (decode (.op .sender) [0x02] = .rejected (.reservedCode 0x02)
      ∧ (idle5.presenting [.op .sender [0x02]]).requests = [.op .sender [0x02]]) := by decide


theorem witness_InstancesHoldTheirUnits :
    decode (.op .sender) [0x24] = .instr .sCancel ∧ decode (.op .receiver) [0x00] = .instr (.ckClr .receiver) := by decide

theorem witness_StepRunsTheDecodedInstruction :
    (idle5.presenting [requestOf (.op .sender) [0x20]]).requests = requestOf (.op .sender) [0x20] :: []
    ∧ decode (.op .sender) [0x20] = .instr (.sLoad [])
    ∧ exec (.sLoad []) (idle5.presenting []) = .next (after [.sLoad []] idle5) := ⟨rfl, by decide, rfl⟩

theorem witness_NotEnabledRequestsStayPresented :
    (∀ v : State, v.snd = idle5.snd → v.rcv = idle5.rcv → attempt (.op .sender [0x21]) v = .fault .notEnabled)
    ∧ (∀ v : State, v.snd = idle5.snd → v.rcv = idle5.rcv → attempt (.op .sender [0xFF]) v = .fault (.rejected (.reservedCode 0xFF)))
    ∧ attempt (.op .sender [0x00]) (idle5.presenting [.op .sender [0x21], .op .sender [0xFF]])
      = .next (idle5.presenting [.op .sender [0x21], .op .sender [0xFF]])
    ∧ decode (.op .sender) [0x02] = .rejected (.reservedCode 0x02)
    ∧ attempt (.op .sender [0x00]) ((idle5.presenting [.op .sender [0x02], .op .sender [0x00]]).presenting [.op .sender [0x02]])
      = .next (idle5.presenting [.op .sender [0x02]]) := by
  refine ⟨fun v hs _ => ?_, fun _ _ _ => rfl, rfl, rfl, rfl⟩
  show State.onSnd v (v.snd.ackArrived []) = _
  rw [hs]
  rfl

theorem witness_TransportResultsBecomeOperations :
    wait5.snd.state = .wait ∧ wait5.snd.state ≠ .failed ∧ idle5.snd.state ≠ .failed ∧ wait5.rcv.state = .run
    ∧ SendResult.ok ≠ .closed ∧ SendResult.timeout ≠ .closed
    ∧ (wait5.presenting [.received .sender (.bytes [0])]).requests = .received .sender (.bytes [0]) :: [] := by decide

/-- Parameters at both ends of every legal range. -/
theorem witness_ResetSetsTheUnitsRegisters :
    (1 ≤ (1 : Nat) ∧ 1 ≤ 65535 ∧ 2 ≤ (2 : Nat) ∧ 2 ≤ 256 ∧ p4.startSeq < p4.seqMod)
    ∧ (1 ≤ (65535 : Nat) ∧ 65535 ≤ 65535 ∧ 2 ≤ (256 : Nat) ∧ 256 ≤ 256 ∧ (255 : Nat) < 256)
    ∧ (idle5.presenting [.reset (.snd p4)]).requests = .reset (.snd p4) :: []
    ∧ (idle5.presenting [.reset (.rcv p4)]).requests = .reset (.rcv p4) :: []
    ∧ (idle5.presenting [.reset (.ck .sender)]).requests = .reset (.ck .sender) :: []
    ∧ (idle5.presenting [.reset (.ck .receiver)]).requests = .reset (.ck .receiver) :: [] := by decide

theorem witness_IllegalConfigurationIsRefused :
    step (idle5.presenting [.reset (.snd { p4 with startSeq := 4 })]) = .refused .illegalConfiguration
    ∧ step (idle5.presenting [.reset (.rcv { p4 with seqMod := 257 })]) = .refused .illegalConfiguration
    ∧ step (idle5.presenting [.reset (.rcv { p4 with maxPayload := 0 })]) = .refused .illegalConfiguration
    ∧ step (idle5.presenting [.reset (.snd p4)]) = .next { idle5 with snd := Snd.reset p4 } := ⟨rfl, rfl, rfl, rfl⟩

theorem witness_ResetWithLegalParametersMeetsTheInvariant :
    paramsLegal { p4 with maxPayload := 1, seqMod := 2, startSeq := 1 } = true
    ∧ paramsLegal { p4 with maxPayload := 65535, seqMod := 256, startSeq := 255 } = true := by decide

/-- A state with a frame pending that meets the invariant. -/
theorem wait5_meets_the_invariant : BlockInv wait5 where
  snd := by constructor <;> decide
  rcv := by constructor <;> decide
  ckSnd := by decide
  ckRcv := by decide

theorem failed5_meets_the_invariant : BlockInv failed5 where
  snd := by constructor <;> decide
  rcv := by constructor <;> decide
  ckSnd := by decide
  ckRcv := by decide

theorem witness_StepKeepsTheInvariant : BlockInv wait5 ∧ step wait5 = .next wait5
    ∧ BlockInv (wait5.presenting [.received .sender .timeout])
    ∧ step (wait5.presenting [.received .sender .timeout]) = .next (after [.sTimeout] wait5) :=
  ⟨wait5_meets_the_invariant, rfl, ⟨wait5_meets_the_invariant.1, wait5_meets_the_invariant.2, wait5_meets_the_invariant.3,
    wait5_meets_the_invariant.4⟩, rfl⟩

theorem witness_NoStepReadsAByteWithoutValue : BlockInv failed5 := failed5_meets_the_invariant

theorem witness_StatusRegistersShowTerminalErrorsOnly : BlockInv failed5 ∧ step failed5 = .next failed5 :=
  ⟨failed5_meets_the_invariant, rfl⟩

theorem witness_CkClrStartsANewChecksum : exec (.ckClr .receiver) wait5 = .next wait5 := rfl

theorem witness_CkAddAddsOneByteModulo255 : (({ idle5 with ckSnd := 254 } : State).ck .sender).toNat ≤ 254
    ∧ (idle5.ck .receiver).toNat ≤ 254 := by decide

theorem witness_ChecksumLaws : List.Perm [(0x48 : Byte), 0x45] [0x45, 0x48] := List.Perm.swap _ _ _

theorem witness_EncReturnsTheFrame : idle5.snd.cfg.maxPayload.toNat < (hello ++ [0x21]).length
    ∧ hello.length ≤ idle5.snd.cfg.maxPayload.toNat ∧ ([] : Bytes).length ≤ idle5.snd.cfg.maxPayload.toNat := by decide

theorem witness_DecParsesAndValidates :
    [(0x75 : Byte), 0, 0].length < 4
    ∧ idle5.rcv.cfg.maxPayload.toNat < 256 * (0x00 : Byte).toNat + (0x06 : Byte).toNat
    ∧ hello.length ≠ 256 * (0x00 : Byte).toNat + (0x04 : Byte).toNat
    ∧ (256 * (0x00 : Byte).toNat + (0x05 : Byte).toNat ≤ idle5.rcv.cfg.maxPayload.toNat
      ∧ hello.length = 256 * (0x00 : Byte).toNat + (0x05 : Byte).toNat) := by decide

theorem witness_CodecRoundTrip : (65535 : Nat) ≤ 65535 ∧ encodeFrame 65535 0 hello = .frame frame0
    ∧ decodeFrame 65535 frame0 = .parsed 0 hello true ∧ decodeFrame 65535 (0x76 :: frame0.tail) = .parsed 0 hello false := by decide

theorem witness_HeaderBytesAndTheChecksum : decodeFrame 65535 (0xFF :: frame0.tail) = .parsed 0 hello false
    ∧ encodeFrame 65535 0 hello = .frame (0x75 :: 0x00 :: 0x00 :: 0x05 :: hello) := by decide

theorem witness_SLoadStoresAndTransmits : idle5.snd.state = .idle ∧ hello.length ≤ idle5.snd.cfg.maxPayload.toNat
    ∧ idle5.snd.cfg.maxPayload.toNat < (hello ++ [0x21]).length ∧ wait5.snd.state ≠ .idle ∧ failed5.snd.state ≠ .idle := by decide

/-- A retry at the last count that the bound allows, and one beyond it. -/
theorem witness_SAckConfirmsOrRetries :
    (wait5.snd.state = .wait ∧ [(0x00 : Byte)] = [wait5.snd.nextSequence])
    ∧ ((after [.sTimeout] wait5).snd.state = .wait ∧ [] ≠ [(after [.sTimeout] wait5).snd.nextSequence]
      ∧ (after [.sTimeout] wait5).snd.retryCount + 1 ≤ (after [.sTimeout] wait5).snd.cfg.maxRetry
      ∧ memRead (after [.sTimeout] wait5).snd.pendBuf 0 (after [.sTimeout] wait5).snd.pendLen = some frame0)
    ∧ (last5.snd.state = .wait ∧ [0x01] ≠ [last5.snd.nextSequence] ∧ last5.snd.cfg.maxRetry < last5.snd.retryCount + 1)
    ∧ idle5.snd.state ≠ .wait := by decide

theorem witness_STimeoutRetransmitsOrFails :
    ((after [.sTimeout] wait5).snd.state = .wait
      ∧ (after [.sTimeout] wait5).snd.retryCount + 1 ≤ (after [.sTimeout] wait5).snd.cfg.maxRetry
      ∧ memRead (after [.sTimeout] wait5).snd.pendBuf 0 (after [.sTimeout] wait5).snd.pendLen = some frame0)
    ∧ (last5.snd.state = .wait ∧ last5.snd.cfg.maxRetry < last5.snd.retryCount + 1)
    ∧ (wait4.snd.state = .wait ∧ wait4.snd.cfg.maxRetry < wait4.snd.retryCount + 1)
    ∧ failed5.snd.state ≠ .wait := by decide

theorem witness_SClosedAndSCancelEnterFailed : idle5.snd.state = .idle ∧ wait5.snd.state = .wait ∧ failed5.snd.state = .failed := by
  decide

theorem witness_RetryKeepsThePendingFrame :
    exec .sTimeout wait5 = .next (after [.sTimeout] wait5)
    ∧ ([0x01] ≠ [last5.snd.nextSequence] ∧ exec (.sAck [0x01]) last5 = .next (after [.sAck [0x01]] last5)) :=
  ⟨rfl, by decide, rfl⟩

/-- A step with a reset waiting behind another request, and the reset itself. -/
theorem witness_PendingFrameIsNeverModified :
    BlockInv (wait5.presenting [.received .receiver .timeout, .reset (.snd p4)]) ∧ wait5.snd.pendValid = true
    ∧ step (wait5.presenting [.received .receiver .timeout, .reset (.snd p4)])
      = .next ((after [.rTimeout] wait5).presenting [.reset (.snd p4)])
    ∧ BlockInv (wait5.presenting [.reset (.snd p4)])
    ∧ step (wait5.presenting [.reset (.snd p4)]) = .next { wait5 with snd := Snd.reset p4 } :=
  have h := wait5_meets_the_invariant
  ⟨⟨h.1, h.2, h.3, h.4⟩, by decide, rfl, ⟨h.1, h.2, h.3, h.4⟩, rfl⟩

theorem witness_SenderTransitionTable : unitOf .sCancel = .snd ∧ exec .sCancel wait5 = .next (after [.sCancel] wait5)
    ∧ exec (.sLoad hello) idle5 = .next wait5
    ∧ exec (.sLoad (hello ++ [0x21])) idle5 = .next (after [.sLoad (hello ++ [0x21])] idle5) := ⟨rfl, rfl, rfl, rfl⟩

/-- Two answers that do not match, with one retry left: the last of them is fatal. -/
theorem witness_BoundedRetryTermination :
    (after [.sTimeout] wait5).snd.state = .wait
    ∧ (after [.sTimeout] wait5).snd.retryCount ≤ (after [.sTimeout] wait5).snd.cfg.maxRetry
    ∧ memRead (after [.sTimeout] wait5).snd.pendBuf 0 (after [.sTimeout] wait5).snd.pendLen = some frame0
    ∧ (∀ a ∈ [Answer.timeout, .datagram [0x00, 0x00]], a.wrongFor (after [.sTimeout] wait5).snd.nextSequence = true)
    ∧ [Answer.timeout, .datagram [0x00, 0x00]].length
      = (after [.sTimeout] wait5).snd.cfg.maxRetry + 1 - (after [.sTimeout] wait5).snd.retryCount := by decide

theorem witness_BoundedRetryTermination_waiting :
    (∀ a ∈ [Answer.datagram []], a.ofReceive = true)
    ∧ execAll ([Answer.datagram []].map Answer.instr) (after [.sTimeout] wait5) = .next (after [.sAck []] (after [.sTimeout] wait5))
    ∧ (after [.sAck []] (after [.sTimeout] wait5)).snd.state = .wait := ⟨by decide, rfl, by decide⟩

theorem witness_ChunksSplitInOrder : (1 ≤ (2 : Nat)) ∧ (chunks 2 hello)[0]? = some [0x48, 0x45] ∧ 0 + 1 < (chunks 2 hello).length
    ∧ (chunks 2 hello)[2]? = some [0x4F] ∧ 2 + 1 = (chunks 2 hello).length := by decide

theorem idle5_sender_meets_the_invariant : idle5.snd.Inv := by constructor <;> decide

theorem witness_SendReturnsOkOrATerminalError : idle5.snd.Inv ∧ idle5.snd.state = .idle
    ∧ send hello idle5 [.timeout, .datagram [0x00], .cancel]
      = .ok (after [.sLoad hello, .sTimeout, .sAck [0x00]] idle5) [.cancel]
    ∧ send hello idle5 [.closed] = .err .channelClosed (after [.sLoad hello, .sClosed] idle5) [] :=
  ⟨idle5_sender_meets_the_invariant, by decide, rfl, rfl⟩

theorem witness_RFrameRejectionsReacknowledge : idle5.rcv.state = .run
    ∧ decodeFrame idle5.rcv.cfg.maxPayload.toNat [0x75, 0x00, 0x00] = .malformed
    ∧ decodeFrame idle5.rcv.cfg.maxPayload.toNat (0x8A :: frame0.tail) = .parsed 0x00 hello false
    ∧ (decodeFrame idle5.rcv.cfg.maxPayload.toNat [0x44, 0x02, 0x00, 0x01, 0x44] = .parsed 0x02 [0x44] true
      ∧ (0x02 : Byte) ≠ idle5.rcv.expected) := by decide

theorem witness_RFrameAcceptsTheExpectedFrame : idle5.rcv.state = .run ∧ hello.length ≤ idle5.rcv.cfg.maxPayload.toNat
    ∧ (0x00 : Byte).toNat = hello.length / 256 ∧ (0x05 : Byte).toNat = hello.length % 256
    ∧ (0x75 : Byte).toNat = (hello.map BitVec.toNat).sum % 255 := by decide

theorem witness_RFrameAnswersEveryDatagramOnce : idle5.rcv.state = .run ∧ failed5.rcv.state ≠ .run := by decide

theorem witness_RTimeoutCountsTowardsTheIdleLimit :
    (wait4.rcv.state = .run ∧ wait4.rcv.cfg.idleLimit = 0)
    ∧ ((after [.rTimeout] idle5).rcv.state = .run ∧ 0 < (after [.rTimeout] idle5).rcv.cfg.idleLimit
      ∧ (after [.rTimeout] idle5).rcv.idleCount + 1 ≠ (after [.rTimeout] idle5).rcv.cfg.idleLimit)
    ∧ ((after [.rTimeout, .rTimeout] idle5).rcv.state = .run ∧ 0 < (after [.rTimeout, .rTimeout] idle5).rcv.cfg.idleLimit
      ∧ (after [.rTimeout, .rTimeout] idle5).rcv.idleCount + 1 = (after [.rTimeout, .rTimeout] idle5).rcv.cfg.idleLimit)
    ∧ failed5.rcv.state ≠ .run := by decide

theorem witness_RClosedFailsAndRStopEnds : idle5.rcv.state = .run ∧ failed5.rcv.state ≠ .run
    ∧ (after [.rStop] idle5).rcv.state ≠ .run := by decide

/-- An operation for each row, the idle limit on both sides. -/
theorem witness_ReceiverTransitionTable : unitOf (.rFrame frame0) = .rcv
    ∧ exec (.rFrame frame0) idle5 = .next (after [.rFrame frame0] idle5)
    ∧ exec (.rFrame []) idle5 = .next (after [.rFrame []] idle5)
    ∧ exec .rTimeout wait4 = .next (after [.rTimeout] wait4)
    ∧ exec .rTimeout (after [.rTimeout] idle5) = .next (after [.rTimeout, .rTimeout] idle5)
    ∧ exec .rTimeout (after [.rTimeout, .rTimeout] idle5) = .next (after [.rTimeout, .rTimeout, .rTimeout] idle5)
    ∧ exec .rClosed idle5 = .next (after [.rClosed] idle5)
    ∧ exec .rStop idle5 = .next (after [.rStop] idle5) := ⟨rfl, rfl, rfl, rfl, rfl, rfl, rfl, rfl⟩

theorem idle5_receiver_meets_the_invariant : idle5.rcv.Inv := by constructor <;> decide

/-- The same frame again, at once. -/
theorem witness_ExactlyOnceUntilTheNumbersWrap : idle5.rcv.Inv
    ∧ exec (.rFrame frame0) idle5 = .next (after [.rFrame frame0] idle5)
    ∧ decodeFrame idle5.rcv.cfg.maxPayload.toNat frame0 = .parsed 0x00 hello true ∧ (0x00 : Byte) = idle5.rcv.expected
    ∧ execAll [.sLoad []] (after [.rFrame frame0] idle5) = .next (after [.rFrame frame0, .sLoad []] idle5)
    ∧ (after [.rFrame frame0, .sLoad []] idle5).rcv.delivered.length
      < (after [.rFrame frame0] idle5).rcv.delivered.length + (idle5.rcv.cfg.seqMod.toNat - 1)
    ∧ decodeFrame (after [.rFrame frame0, .sLoad []] idle5).rcv.cfg.maxPayload.toNat frame0 = .parsed 0x00 hello true
    ∧ exec (.rFrame frame0) (after [.rFrame frame0, .sLoad []] idle5)
      = .next (after [.rFrame frame0, .sLoad [], .rFrame frame0] idle5) :=
  ⟨idle5_receiver_meets_the_invariant, rfl, by decide, by decide, rfl, by decide, by decide, rfl⟩

theorem witness_RunEndsInDoneOrFailed : idle5.rcv.Inv ∧ idle5.rcv.state = .run
    ∧ runReceiver [.datagram frame0, .stop, .timeout] idle5 = .ok (after [.rFrame frame0, .rStop] idle5) [.timeout]
    ∧ runReceiver [.closed] idle5 = .err .channelClosed (after [.rClosed] idle5) []
    ∧ runReceiver [.timeout] idle5 = .running (after [.rTimeout] idle5) :=
  ⟨idle5_receiver_meets_the_invariant, by decide, rfl, rfl, rfl⟩

theorem witness_FrameArrivalIsAcceptedOrReacknowledged :
    hello.length < 65536
    ∧ (idle5.rcv.state = .run ∧ hello.length ≤ idle5.rcv.cfg.maxPayload.toNat
      ∧ (0x75 : Byte).toNat = (hello.map BitVec.toNat).sum % 255 ∧ (0x00 : Byte) = idle5.rcv.expected)
    ∧ ¬ (hello.length ≤ idle5.rcv.cfg.maxPayload.toNat ∧ (0xFF : Byte).toNat = (hello.map BitVec.toNat).sum % 255
      ∧ (0x00 : Byte) = idle5.rcv.expected)
    ∧ failed5.rcv.state ≠ .run := by decide

theorem witness_AckArrivalConfirmsOrRetries :
    (wait5.snd.state = .wait ∧ (0x00 : Byte) = wait5.snd.nextSequence)
    ∧ ((0xFF : Byte) ≠ wait5.snd.nextSequence ∧ wait5.snd.retryCount + 1 ≤ wait5.snd.cfg.maxRetry
      ∧ memRead wait5.snd.pendBuf 0 wait5.snd.pendLen = some frame0)
    ∧ (last5.snd.state = .wait ∧ (0xFF : Byte) ≠ last5.snd.nextSequence ∧ last5.snd.cfg.maxRetry < last5.snd.retryCount + 1)
    ∧ idle5.snd.state ≠ .wait := by decide

/-- A step that transmits, and one that acknowledges. -/
theorem witness_EmittedDatagramsAreValid :
    BlockInv (wait5.presenting [.received .sender .timeout])
    ∧ step (wait5.presenting [.received .sender .timeout]) = .next (after [.sTimeout] wait5)
    ∧ (after [.sTimeout] wait5).snd.out = wait5.snd.out ++ [.tx frame0]
    ∧ BlockInv (wait5.presenting [.received .receiver (.bytes frame0)])
    ∧ step (wait5.presenting [.received .receiver (.bytes frame0)]) = .next (after [.rFrame frame0] wait5)
    ∧ (after [.rFrame frame0] wait5).rcv.out = wait5.rcv.out ++ [.sink hello, .ackTx 0x00] :=
  have h := wait5_meets_the_invariant
  ⟨⟨h.1, h.2, h.3, h.4⟩, rfl, by decide, ⟨h.1, h.2, h.3, h.4⟩, rfl, by decide⟩

theorem witness_OperationsWriteTheirOwnUnitOnly : exec (.ckAdd .receiver 0x01) idle5 = .next { idle5 with ckRcv := 0x01 }
    ∧ exec (.dec []) idle5 = .next { idle5 with decOut := [.malformed] } := ⟨rfl, rfl⟩

theorem witness_SequencersShareNothing :
    unitOf .sTimeout = .snd ∧ wait5.snd = ({ wait5 with rcv := failed5.rcv } : State).snd
    ∧ exec .sTimeout wait5 = .next (after [.sTimeout] wait5)
    ∧ unitOf .rStop = .rcv ∧ idle5.rcv = wait5.rcv ∧ exec .rStop idle5 = .next (after [.rStop] idle5)
    ∧ andThen (exec .sTimeout wait5) (exec .rStop) = .next (after [.sTimeout, .rStop] wait5) :=
  ⟨rfl, rfl, rfl, rfl, rfl, rfl, rfl⟩

theorem witness_TerminalStatesAreSticky : unitOf (.ack 0x00) = .snd ∧ unitOf .rStop = .rcv ∧ step failed5 = .next failed5
    ∧ failed5.snd.state = .failed ∧ failed5.rcv.state = .failed ∧ (after [.rStop] idle5).rcv.state = .done
    ∧ step (failed5.presenting [.op .sender [0x00], .reset (.snd p4)]) = .next (failed5.presenting [.reset (.snd p4)])
    ∧ step (failed5.presenting [.reset (.rcv p4)]) = .next { failed5 with rcv := Rcv.reset p4 } :=
  ⟨rfl, rfl, rfl, by decide, by decide, by decide, rfl, rfl⟩

theorem witness_ConfigurationIsReadOnly :
    step (wait5.presenting [.received .sender .timeout, .reset (.snd p4)])
      = .next ((after [.sTimeout] wait5).presenting [.reset (.snd p4)])
    ∧ step (wait5.presenting [.reset (.snd p4)]) = .next { wait5 with snd := Snd.reset p4 }
    ∧ step (wait5.presenting [.reset (.rcv p4)]) = .next { wait5 with rcv := Rcv.reset p4 } := ⟨rfl, rfl, rfl⟩

theorem witness_OutputsAreAppendedInOrder :
    step (wait5.presenting [.received .receiver (.bytes frame0), .reset (.rcv p4)])
      = .next ((after [.rFrame frame0] wait5).presenting [.reset (.rcv p4)])
    ∧ step (wait5.presenting [.reset (.snd p4)]) = .next { wait5 with snd := Snd.reset p4 } := ⟨rfl, rfl⟩

theorem witness_ClassifyLabelsCannotBeObserved :
    ({ idle5 with rcv := { idle5.rcv with classes := [.malformed] } } : State).forgetLabels = idle5.forgetLabels
    ∧ ({ idle5 with rcv := { idle5.rcv with classes := [.malformed] } } : State) ≠ idle5 := ⟨rfl, by decide⟩

/-- P7, after a corrupted copy has been rejected already and with the first frame pending: a second corrupted copy. -/
theorem witness_RejectedFirstFrameIsNotConfirmed :
    BlockInv (after [.rFrame []] wait5)
    ∧ (after [.rFrame []] wait5).snd.cfg.seqMod = (after [.rFrame []] wait5).rcv.cfg.seqMod
    ∧ (after [.rFrame []] wait5).snd.cfg.startSeq = (after [.rFrame []] wait5).rcv.cfg.startSeq
    ∧ (after [.rFrame []] wait5).snd.confirmations = 0 ∧ (after [.rFrame []] wait5).rcv.delivered = []
    ∧ exec (.rFrame (0x8A :: frame0.tail)) (after [.rFrame []] wait5)
      = .next (after [.rFrame [], .rFrame (0x8A :: frame0.tail)] wait5)
    ∧ (after [.rFrame [], .rFrame (0x8A :: frame0.tail)] wait5).rcv.delivered = []
    ∧ (after [.rFrame [], .rFrame (0x8A :: frame0.tail)] wait5).rcv.out = [.ackTx 0xFF, .ackTx 0xFF]
    ∧ exec (.sAck [0xFF]) (after [.rFrame [], .rFrame (0x8A :: frame0.tail)] wait5)
      = .next (after [.rFrame [], .rFrame (0x8A :: frame0.tail), .sAck [0xFF]] wait5) :=
  ⟨⟨by constructor <;> decide, by constructor <;> decide, by decide, by decide⟩, by decide, by decide, by decide, by decide, rfl,
    by decide, by decide, rfl⟩

theorem witness_DisagreeingStartIsNeverAccepted :
    paramsLegal p5 = true ∧ paramsLegal { p5 with startSeq := 255 } = true ∧ p5.startSeq ≠ 255
    ∧ exec (.sLoad hello) (State.resetWith p5 { p5 with startSeq := 255 })
      = .next (after [.sLoad hello] (State.resetWith p5 { p5 with startSeq := 255 }))
    ∧ (after [.sLoad hello] (State.resetWith p5 { p5 with startSeq := 255 })).snd.frames = [frame0]
    ∧ execAll (List.replicate 2 (.rFrame frame0)) (after [.sLoad hello] (State.resetWith p5 { p5 with startSeq := 255 }))
      = .next (after [.sLoad hello, .rFrame frame0, .rFrame frame0] (State.resetWith p5 { p5 with startSeq := 255 })) :=
  ⟨by decide, by decide, by decide, rfl, by decide, rfl⟩

/-- The receiver's START_SEQ one behind the sender's, and one ahead of it. -/
theorem witness_DisagreeingStartEndsByTheReacknowledgment :
    paramsLegal p5 = true
    ∧ (paramsLegal { p5 with startSeq := 255 } = true ∧ p5.startSeq ≠ 255 ∧ (255 + 256 - 1) % 256 ≠ p5.startSeq
      ∧ exec (.sLoad hello) (State.resetWith p5 { p5 with startSeq := 255 })
        = .next (after [.sLoad hello] (State.resetWith p5 { p5 with startSeq := 255 }))
      ∧ (after [.sLoad hello] (State.resetWith p5 { p5 with startSeq := 255 })).snd.frames = [frame0])
    ∧ (paramsLegal { p5 with startSeq := 1 } = true ∧ p5.startSeq ≠ 1 ∧ (1 + 256 - 1) % 256 = p5.startSeq
      ∧ exec (.sLoad hello) (State.resetWith p5 { p5 with startSeq := 1 })
        = .next (after [.sLoad hello] (State.resetWith p5 { p5 with startSeq := 1 }))
      ∧ (after [.sLoad hello] (State.resetWith p5 { p5 with startSeq := 1 })).snd.frames = [frame0]) :=
  ⟨by decide, ⟨by decide, by decide, by decide, rfl, by decide⟩, by decide, by decide, by decide, rfl, by decide⟩

/-- The reduced modulus at its last number, where both ends wrap and every silence fits; and IDLE_LIMIT 3 with the longest
silences that fit. -/
theorem witness_FaultFreeTransferDeliversTheData :
    (BlockInv (State.resetWith p4 p4)
      ∧ (State.resetWith p4 p4).snd.state = .idle ∧ (State.resetWith p4 p4).rcv.state = .run
      ∧ (State.resetWith p4 p4).snd.cfg.maxPayload = (State.resetWith p4 p4).rcv.cfg.maxPayload
      ∧ (State.resetWith p4 p4).snd.cfg.seqMod = (State.resetWith p4 p4).rcv.cfg.seqMod
      ∧ (State.resetWith p4 p4).snd.nextSequence = (State.resetWith p4 p4).rcv.expected
      ∧ silencesFit (State.resetWith p4 p4).rcv.cfg.idleLimit 0 (chunks 2 hello).length [{ beforeLoad := 7, beforeAck := [7] }])
    ∧ (idle5.snd.state = .idle ∧ idle5.rcv.state = .run ∧ idle5.snd.cfg.maxPayload = idle5.rcv.cfg.maxPayload
      ∧ idle5.snd.cfg.seqMod = idle5.rcv.cfg.seqMod ∧ idle5.snd.nextSequence = idle5.rcv.expected
      ∧ silencesFit idle5.rcv.cfg.idleLimit idle5.rcv.idleCount (chunks 5 hello).length
        [{ beforeLoad := 2, beforeAck := [1] }, { beforeLoad := 1, beforeAck := [] }]) :=
  ⟨⟨⟨by constructor <;> decide, by constructor <;> decide, by decide, by decide⟩, by decide, by decide, by decide, by decide,
    by decide, .inl rfl, .inl rfl, .inl rfl, .inl rfl⟩, by decide, by decide, by decide, by decide, by decide,
    .inr (by decide), .inr (by decide)⟩

/-- Ends that disagree. -/
theorem witness_FaultFreeTransferDeliversTheData_without_agreement :
    BlockInv (State.resetWith p5 { p5 with startSeq := 9 })
    ∧ (State.resetWith p5 { p5 with startSeq := 9 }).snd.state = .idle
    ∧ (State.resetWith p5 { p5 with startSeq := 9 }).rcv.state = .run
    ∧ ((State.resetWith p4 p4).rcv.cfg.idleLimit = 0 ∧ ([] : List Silence) = []) :=
  ⟨⟨by constructor <;> decide, by constructor <;> decide, by decide, by decide⟩, by decide, by decide, by decide, rfl⟩

/-- R68: a transfer with timeouts between the frames, and what it leaves. -/
theorem test_transfer_with_silences :
    (match transfer [{ beforeLoad := 2, beforeAck := [1] }, { beforeLoad := 1, beforeAck := [] }] hello idle5 with
      | .next t => (t.rcv.sink, rRow t)
      | _ => ([], rRow idle5)) = (hello, (.run, .noError, 1, 0, 2)) := by decide

/-- R68 between ends that disagree: MAX_RETRY + 1 transmissions, each delivered and answered, and then DeliveryFailed. -/
theorem test_transfer_between_ends_that_disagree :
    (match transfer [] (hello ++ hello) (State.resetWith p5 { p5 with startSeq := 9 }) with
      | .next t => (sRow t, t.snd.frames.length, t.rcv.acks)
      | _ => (sRow idle5, 0, [])) = ((.failed, .deliveryFailed, 0, 3, true), 3, [8, 8, 8]) := by decide

theorem witness_SilenceEndsTheReceiverInMidStream : BlockInv (after [.rTimeout] idle5)
    ∧ (after [.rTimeout] idle5).snd.state = .idle ∧ (after [.rTimeout] idle5).rcv.state = .run
    ∧ 0 < (after [.rTimeout] idle5).rcv.cfg.idleLimit ∧ hello.length ≤ (after [.rTimeout] idle5).snd.cfg.maxPayload.toNat :=
  ⟨⟨by constructor <;> decide, by constructor <;> decide, by decide, by decide⟩, by decide, by decide, by decide, by decide⟩

/-- P5: the acknowledgment is lost, the frame is sent again, and the second acknowledgment confirms it. -/
theorem witness_InOrderChannelDeliversAPrefix : paramsLegal p5 = true ∧ paramsAgree p5 p5
    ∧ (Link.run [.load, .frameCopy 0, .sndTimeout, .frameCopy 1, .ackCopy 1] (Link.start p5 p5 hello)).map
      (fun l => (l.todo, l.hw.snd.state, l.hw.rcv.sink)) = some ([], .idle, hello) :=
  ⟨by decide, ⟨rfl, rfl, rfl⟩, by decide⟩

/-- A fair execution: the sender waits, its `receive` ends with Closed at moment 0, and nothing happens after that. -/
def closedAtOnce : Execution where
  state := fun n => if n = 0 then wait5 else after [.sClosed] wait5
  event := fun n => if n = 0 then some (.received .sender .closed) else none

theorem closedAtOnce_valid : closedAtOnce.valid := by
  intro n
  cases n <;> rfl

theorem witness_FairTransportEndsEveryWait :
    closedAtOnce.valid ∧ closedAtOnce.fair .sender ∧ (closedAtOnce.state 0).snd.state = .wait
    ∧ idle5.snd.Inv ∧ idle5.snd.state = .idle
    ∧ send hello idle5 [.timeout, .datagram []] = .waiting (after [.sLoad hello, .sTimeout, .sAck []] idle5) := by
  refine ⟨closedAtOnce_valid, fun n h => ?_, by decide, idle5_sender_meets_the_invariant, by decide, rfl⟩
  cases n with
  | zero => exact ⟨0, Nat.le_refl 0, .inl ⟨.closed, rfl⟩⟩
  | succ n => cases h

/-- A fair execution: the receiver sees three timeouts, and nothing happens after that. -/
def threeTimeouts : Execution where
  state := fun n => after (List.replicate (min n 3) .rTimeout) idle5
  event := fun n => if n < 3 then some (.received .receiver .timeout) else none

theorem threeTimeouts_valid : threeTimeouts.valid := by
  intro n
  match n with
  | 0 | 1 | 2 => rfl
  | n + 3 => simp [threeTimeouts]

theorem witness_FairTransportEndsASilentRun :
    threeTimeouts.valid ∧ threeTimeouts.fair .receiver ∧ threeTimeouts.silentFrom 0 ∧ (threeTimeouts.state 0).rcv.Inv
    ∧ 0 < (threeTimeouts.state 0).rcv.cfg.idleLimit
    ∧ idle5.rcv.Inv ∧ runReceiver ([.datagram []] ++ List.replicate 2 .timeout) idle5
      = .running (after [.rFrame [], .rTimeout, .rTimeout] idle5) := by
  refine ⟨threeTimeouts_valid, fun n h => ?_, fun m r _ h => ?_, idle5_receiver_meets_the_invariant, by decide,
    idle5_receiver_meets_the_invariant, rfl⟩
  · match n with
    | 0 | 1 | 2 => exact ⟨_, Nat.le_refl _, .inl ⟨.timeout, rfl⟩⟩
    | n + 3 =>
      have hd : (threeTimeouts.state (n + 3)).rcv.state = .done := by
        simp only [threeTimeouts, show min (n + 3) 3 = 3 by omega]
        decide
      rw [receiveOutstanding, hd] at h
      cases h
  · simp only [threeTimeouts] at h
    split at h
    · cases h
      exact ⟨fun d => by simp [present, timeoutInstr], fun c q p => by simp [present, timeoutInstr]⟩
    · cases h

end Sys2Proof.Tests
end

section
/-! The arithmetic of the configuration registers: the legal ones (R261), and the sequence increment (R169, R202). -/

namespace Sys2Proof.Machine

/-- The parameters of R261, in numbers. -/
theorem paramsLegal_iff {p : Params} : paramsLegal p = true ↔
    1 ≤ p.maxPayload ∧ p.maxPayload ≤ 65535 ∧ 2 ≤ p.seqMod ∧ p.seqMod ≤ 256 ∧ p.startSeq < p.seqMod := by
  simp [paramsLegal, and_assoc]

/-- The legal configuration registers, in numbers. -/
theorem Cfg.legal_iff {c : Cfg} : c.legal = true ↔
    1 ≤ c.maxPayload.toNat ∧ 2 ≤ c.seqMod.toNat ∧ c.seqMod.toNat ≤ 256 ∧ c.startSeq.toNat < c.seqMod.toNat := by
  simp [Cfg.legal, and_assoc]

/-- Legal parameters fit the registers they are loaded into (R38). -/
theorem Cfg.toNat_load {p : Params} (h : paramsLegal p = true) :
    (Cfg.load p).maxPayload.toNat = p.maxPayload ∧ (Cfg.load p).seqMod.toNat = p.seqMod
      ∧ (Cfg.load p).startSeq.toNat = p.startSeq := by
  have hp := paramsLegal_iff.mp h
  simp only [Cfg.load, BitVec.toNat_ofNat]
  omega

theorem Cfg.legal_load {p : Params} (h : paramsLegal p = true) : (Cfg.load p).legal = true := by
  obtain ⟨hm, hs, hq⟩ := Cfg.toNat_load h
  have hp := paramsLegal_iff.mp h
  rw [Cfg.legal_iff, hm, hs, hq]
  omega

/-- A number of a legal configuration fits the sequence registers. -/
theorem Cfg.toNat_ofNat_mod {c : Cfg} (h : c.legal = true) (n : Nat) :
    (BitVec.ofNat 8 (n % c.seqMod.toNat)).toNat = n % c.seqMod.toNat := by
  obtain ⟨-, h2, h256, -⟩ := Cfg.legal_iff.mp h
  have := Nat.mod_lt n (by omega : 0 < c.seqMod.toNat)
  rw [BitVec.toNat_ofNat, Nat.mod_eq_of_lt (by omega)]

theorem toNat_seqNext {c : Cfg} (h : c.legal = true) (q : BitVec 8) :
    (seqNext c q).toNat = (q.toNat + 1) % c.seqMod.toNat :=
  Cfg.toNat_ofNat_mod h _

theorem toNat_seqNext_lt {c : Cfg} (h : c.legal = true) (q : BitVec 8) : (seqNext c q).toNat < c.seqMod.toNat := by
  obtain ⟨-, h2, -, -⟩ := Cfg.legal_iff.mp h
  rw [toNat_seqNext h]
  exact Nat.mod_lt _ (by omega)

/-- The increment keeps the register the count of the increments made (R25, R35). -/
theorem toNat_seqNext_count {c : Cfg} (h : c.legal = true) {q : BitVec 8} {a n : Nat} (hq : q.toNat = (a + n) % c.seqMod.toNat) :
    (seqNext c q).toNat = (a + (n + 1)) % c.seqMod.toNat := by
  rw [toNat_seqNext h, hq, Nat.mod_add_mod, Nat.add_assoc]

/-- A number is one behind its successor (R33). -/
theorem toNat_eq_pred_seqNext {c : Cfg} (h : c.legal = true) {q : BitVec 8} (hq : q.toNat < c.seqMod.toNat) :
    q.toNat = ((seqNext c q).toNat + c.seqMod.toNat - 1) % c.seqMod.toNat := by
  rw [toNat_seqNext h]
  by_cases hw : q.toNat + 1 = c.seqMod.toNat
  · rw [hw, Nat.mod_self, Nat.zero_add, Nat.mod_eq_of_lt (by omega)]
    omega
  · rw [Nat.mod_eq_of_lt (by omega : q.toNat + 1 < _), Nat.add_right_comm, Nat.add_sub_cancel, Nat.add_mod_right,
      Nat.mod_eq_of_lt hq]

end Sys2Proof.Machine
end

section
/-! What one step can do to each unit, said once: the frame of every operation, the moves of the two sequencers, and the step
as one of them, a reset, or nothing. -/

namespace Sys2Proof.Machine

/-! ## The frame of an operation (R21) -/

@[simp] theorem State.putCk_sender_ckRcv (s : State) (v : BitVec 8) : (s.putCk .sender v).ckRcv = s.ckRcv := rfl
@[simp] theorem State.putCk_receiver_ckSnd (s : State) (v : BitVec 8) : (s.putCk .receiver v).ckSnd = s.ckSnd := rfl

/-- Settles O47: an operation has one unit, and the next state is the state before with that unit's part new. -/
theorem operationsWriteTheirOwnUnitOnly : Obligations.OperationsWriteTheirOwnUnitOnly := by
  intro i s t h
  rcases exec_eq_next h with ⟨u, v, rfl, hu, hi⟩ | ⟨r, rfl, hu, hi⟩ | ⟨r, rfl, hu, hi⟩ | ⟨u, rfl, hu, hi⟩ | ⟨u, rfl, hu, hi⟩
  · cases u <;> simp [hu, hi]
  all_goals simp [hu]

theorem exec_snd_of_ne {i : Instr} {s t : State} (h : exec i s = .next t) (hi : unitOf i ≠ .snd) : t.snd = s.snd :=
  (operationsWriteTheirOwnUnitOnly i s t h).2.1 hi

theorem exec_rcv_of_ne {i : Instr} {s t : State} (h : exec i s = .next t) (hi : unitOf i ≠ .rcv) : t.rcv = s.rcv :=
  (operationsWriteTheirOwnUnitOnly i s t h).2.2.1 hi

theorem exec_ck_of_ne {i : Instr} {s t : State} (h : exec i s = .next t) (hi : unitOf i ≠ .ck) :
    t.ckSnd = s.ckSnd ∧ t.ckRcv = s.ckRcv :=
  (operationsWriteTheirOwnUnitOnly i s t h).2.2.2.1 hi

/-! ## The moves of unit SND -/

/-- The frame S.LOAD makes of a chunk (R162). -/
def Snd.loadFrame (u : Snd) (c : Bytes) : Bytes := assemble (toByte (csum255 c)) u.nextSequence c

/-- The unit after S.LOAD of a chunk that fits (R162). -/
def Snd.loaded (u : Snd) (c : Bytes) : Snd :=
  ({ u.storePending (u.loadFrame c) with retryCount := 0, state := .wait } : Snd).emit (.tx (u.loadFrame c))

@[simp] theorem Snd.loaded_cfg (u : Snd) (c : Bytes) : (u.loaded c).cfg = u.cfg := rfl
@[simp] theorem Snd.loaded_state (u : Snd) (c : Bytes) : (u.loaded c).state = .wait := rfl
@[simp] theorem Snd.loaded_err (u : Snd) (c : Bytes) : (u.loaded c).err = u.err := rfl
@[simp] theorem Snd.loaded_retryCount (u : Snd) (c : Bytes) : (u.loaded c).retryCount = 0 := rfl
@[simp] theorem Snd.loaded_pendValid (u : Snd) (c : Bytes) : (u.loaded c).pendValid = true := rfl
@[simp] theorem Snd.loaded_nextSequence (u : Snd) (c : Bytes) : (u.loaded c).nextSequence = u.nextSequence := rfl
@[simp] theorem Snd.loaded_pendLen (u : Snd) (c : Bytes) : (u.loaded c).pendLen = 4 + c.length :=
  length_assemble (toByte (csum255 c)) u.nextSequence c
@[simp] theorem Snd.loaded_pendBuf (u : Snd) (c : Bytes) : (u.loaded c).pendBuf = memWrite u.pendBuf 0 (u.loadFrame c) := rfl
@[simp] theorem Snd.loaded_out (u : Snd) (c : Bytes) : (u.loaded c).out = u.out ++ [.tx (u.loadFrame c)] := rfl

/-- The frame just loaded is the pending one. -/
@[simp] theorem Snd.loaded_pending (u : Snd) (c : Bytes) : (u.loaded c).pending = some (u.loadFrame c) :=
  memRead_memWrite _ _ _

/-- The next units an operation of unit SND can leave, with what was true before it (R161 to R168). The labels of
`classify` are left open where S.TIMEOUT and S.ACK differ in them only. -/
inductive Snd.Move (u : Snd) : Snd → Prop
  /-- S.LOAD of a chunk that does not fit. -/
  | loadError : u.state = .idle → Move u (u.emit (.loadError .payloadTooLarge))
  /-- S.LOAD of a chunk that fits. -/
  | load (c : Bytes) : u.state = .idle → c.length ≤ u.cfg.maxPayload.toNat → Move u (u.loaded c)
  /-- CONFIRM. -/
  | confirm : u.state = .wait → Move u u.confirm
  /-- RETRY within the bound. -/
  | retransmit (f : Bytes) (labels : List ErrorCode) : u.state = .wait → u.retryCount + 1 ≤ u.cfg.maxRetry → u.pending = some f →
      Move u { u with retryCount := u.retryCount + 1, out := u.out ++ [.tx f], classes := labels }
  /-- RETRY above the bound. -/
  | exhaust (labels : List ErrorCode) : u.state = .wait → u.cfg.maxRetry < u.retryCount + 1 →
      Move u { u with retryCount := u.retryCount + 1, state := .failed, err := .deliveryFailed, classes := labels }
  /-- S.CLOSED and S.CANCEL. -/
  | raise (e : ErrorCode) : u.state ≠ .failed → e = .channelClosed ∨ e = .cancelled → Move u (u.raise e)

/-- RETRY, of the unit or of the unit with a label added, is a move. -/
theorem Snd.Move.of_retry {u v : Snd} {labels : List ErrorCode} (hw : u.state = .wait)
    (h : Snd.retry { u with classes := labels } = .next v) : u.Move v := by
  rcases Snd.retry_eq_next.mp h with ⟨hmax, rfl⟩ | ⟨hmax, f, hf, rfl⟩
  · exact .exhaust labels hw hmax
  · exact .retransmit f labels hw hmax hf

theorem Snd.Move.of_load {c : Bytes} {u v : Snd} (h : u.load c = .next v) : u.Move v := by
  obtain ⟨hi, ⟨-, rfl⟩ | ⟨hc, rfl⟩⟩ := Snd.load_eq_next.mp h
  · exact .loadError hi
  · exact .load c hi hc

theorem Snd.Move.of_ackArrived {d : Bytes} {u v : Snd} (h : u.ackArrived d = .next v) : u.Move v := by
  obtain ⟨hw, ⟨-, rfl⟩ | ⟨-, hr⟩⟩ := Snd.ackArrived_eq_next.mp h
  · exact .confirm hw
  · exact .of_retry hw hr

theorem Snd.Move.of_timedOut {u v : Snd} (h : u.timedOut = .next v) : u.Move v := by
  obtain ⟨hw, hr⟩ := Snd.timedOut_eq_next.mp h
  exact .of_retry hw hr

theorem Snd.Move.of_closed {u v : Snd} (h : u.closed = .next v) : u.Move v := by
  obtain ⟨hs, rfl⟩ := Snd.closed_eq_next.mp h
  exact .raise _ hs (.inl rfl)

theorem Snd.Move.of_cancel {u v : Snd} (h : u.cancel = .next v) : u.Move v := by
  obtain ⟨hs, rfl⟩ := Snd.cancel_eq_next.mp h
  exact .raise _ hs (.inr rfl)

/-- An operation placed in the state by `State.onSnd` is a move if it is one on the unit. -/
theorem State.onSnd_move {s t : State} {o : Out Snd} (h : s.onSnd o = .next t) (ho : ∀ v, o = .next v → s.snd.Move v) :
    s.snd.Move t.snd := by
  obtain ⟨v, hv, rfl⟩ := State.onSnd_eq_next.mp h
  exact ho v hv

/-- What an operation of any unit does to unit SND. -/
theorem exec_snd {i : Instr} {s t : State} (h : exec i s = .next t) : t.snd = s.snd ∨ s.snd.Move t.snd := by
  cases i with
  | sLoad c => exact .inr (State.onSnd_move h fun _ => .of_load)
  | sAck d => exact .inr (State.onSnd_move h fun _ => .of_ackArrived)
  | ack q => exact .inr (State.onSnd_move h fun _ => .of_ackArrived)
  | sTimeout => exact .inr (State.onSnd_move h fun _ => .of_timedOut)
  | sClosed => exact .inr (State.onSnd_move h fun _ => .of_closed)
  | sCancel => exact .inr (State.onSnd_move h fun _ => .of_cancel)
  | _ => exact .inl (exec_snd_of_ne h (by simp [unitOf]))

/-- No operation writes a configuration register (R38). -/
theorem Snd.Move.cfg_eq {u v : Snd} (h : u.Move v) : v.cfg = u.cfg := by
  cases h <;> rfl

/-! ## The moves of unit RCV -/

/-- The next units an operation of unit RCV can leave, with what was true before it (R191 to R200). -/
inductive Rcv.Move (u : Rcv) : Rcv → Prop
  /-- R.FRAME of a datagram that is rejected. -/
  | reject (d : Bytes) (e : ErrorCode) : u.state = .run → u.rejection d = some e →
      Move u (({ u with idleCount := 0 } : Rcv).reject e)
  /-- R.FRAME of the expected valid frame. -/
  | accept (d p : Bytes) : u.state = .run → decodeFrame u.cfg.maxPayload.toNat d = .parsed u.expected p true →
      Move u (({ u with idleCount := 0 } : Rcv).accept u.expected p)
  /-- R.TIMEOUT with no idle limit. -/
  | silence : u.state = .run → u.cfg.idleLimit = 0 → Move u (u.classify .channelTimeout)
  /-- R.TIMEOUT that does not reach the idle limit. -/
  | idle : u.state = .run → 0 < u.cfg.idleLimit → u.idleCount + 1 ≠ u.cfg.idleLimit →
      Move u { u.classify .channelTimeout with idleCount := u.idleCount + 1 }
  /-- R.TIMEOUT that reaches the idle limit. -/
  | idleDone : u.state = .run → u.idleCount + 1 = u.cfg.idleLimit →
      Move u { u.classify .channelTimeout with idleCount := u.idleCount + 1, state := .done }
  /-- R.CLOSED. -/
  | closed : u.state = .run → Move u (u.raise .channelClosed)
  /-- R.STOP. -/
  | stop : u.state = .run → Move u { u with state := .done }

theorem Rcv.Move.of_frameArrived {d : Bytes} {u v : Rcv} (h : u.frameArrived d = .next v) : u.Move v := by
  obtain ⟨hr, ⟨e, he, rfl⟩ | ⟨p, hp, rfl⟩⟩ := Rcv.frameArrived_eq_next.mp h
  · exact .reject d e hr he
  · exact .accept d p hr hp

theorem Rcv.Move.of_timedOut {u v : Rcv} (h : u.timedOut = .next v) : u.Move v := by
  obtain ⟨hr, ⟨h0, rfl⟩ | ⟨-, hi, rfl⟩ | ⟨h0, hi, rfl⟩⟩ := Rcv.timedOut_eq_next.mp h
  · exact .silence hr h0
  · exact .idleDone hr hi
  · exact .idle hr h0 hi

theorem Rcv.Move.of_closed {u v : Rcv} (h : u.closed = .next v) : u.Move v := by
  obtain ⟨hr, rfl⟩ := Rcv.closed_eq_next.mp h
  exact .closed hr

theorem Rcv.Move.of_stop {u v : Rcv} (h : u.stop = .next v) : u.Move v := by
  obtain ⟨hr, rfl⟩ := Rcv.stop_eq_next.mp h
  exact .stop hr

/-- An operation placed in the state by `State.onRcv` is a move if it is one on the unit. -/
theorem State.onRcv_move {s t : State} {o : Out Rcv} (h : s.onRcv o = .next t) (ho : ∀ v, o = .next v → s.rcv.Move v) :
    s.rcv.Move t.rcv := by
  obtain ⟨v, hv, rfl⟩ := State.onRcv_eq_next.mp h
  exact ho v hv

/-- What an operation of any unit does to unit RCV. -/
theorem exec_rcv {i : Instr} {s t : State} (h : exec i s = .next t) : t.rcv = s.rcv ∨ s.rcv.Move t.rcv := by
  cases i with
  | rFrame d => exact .inr (State.onRcv_move h fun _ => .of_frameArrived)
  | frame c q p => exact .inr (State.onRcv_move h fun _ => .of_frameArrived)
  | rTimeout => exact .inr (State.onRcv_move h fun _ => .of_timedOut)
  | rClosed => exact .inr (State.onRcv_move h fun _ => .of_closed)
  | rStop => exact .inr (State.onRcv_move h fun _ => .of_stop)
  | _ => exact .inl (exec_rcv_of_ne h (by simp [unitOf]))

/-- No operation writes a configuration register (R38). -/
theorem Rcv.Move.cfg_eq {u v : Rcv} (h : u.Move v) : v.cfg = u.cfg := by
  cases h <;> rfl

/-! ## The step -/

/-- A step is an operation, nothing for a unit, or a reset that was presented; the units, the registers and the output lists it
starts from are those of the state. -/
theorem step_cases {s t : State} (h : step s = .next t) :
    (∃ rs i, exec i (s.presenting rs) = .next t) ∨ (∃ rs, t = s.presenting rs)
    ∨ ∃ rs q, Request.reset q ∈ s.requests ∧ resetUnit q (s.presenting rs) = .next t := by
  rcases step_eq_next h with ⟨-, rfl⟩ | ⟨pre, r, post, hreq, ha⟩
  · exact .inr (.inl ⟨t.requests, rfl⟩)
  rcases attempt_eq_next ha with ⟨i, -, hx⟩ | ⟨-, rfl⟩ | ⟨q, rfl, hq⟩
  · exact .inl ⟨_, i, hx⟩
  · exact .inr (.inl ⟨_, rfl⟩)
  · exact .inr (.inr ⟨_, q, by simp [hreq], hq⟩)

/-- What a step does to unit SND: nothing, one of its moves, or its reset with legal parameters that were presented. -/
theorem step_snd {s t : State} (h : step s = .next t) :
    t.snd = s.snd ∨ s.snd.Move t.snd
    ∨ ∃ p, paramsLegal p = true ∧ Request.reset (.snd p) ∈ s.requests ∧ t.snd = Snd.reset p := by
  rcases step_cases h with ⟨rs, i, hx⟩ | ⟨rs, rfl⟩ | ⟨rs, q, hm, hq⟩
  · exact (exec_snd hx).imp_right .inl
  · exact .inl rfl
  · rcases resetUnit_eq_next.mp hq with ⟨p, rfl, hp, rfl⟩ | ⟨p, -, -, rfl⟩ | ⟨u, -, rfl⟩
    · exact .inr (.inr ⟨p, hp, hm, rfl⟩)
    · exact .inl rfl
    · exact .inl (State.putCk_snd _ _ _)

/-- What a step does to unit RCV: nothing, one of its moves, or its reset with legal parameters that were presented. -/
theorem step_rcv {s t : State} (h : step s = .next t) :
    t.rcv = s.rcv ∨ s.rcv.Move t.rcv
    ∨ ∃ p, paramsLegal p = true ∧ Request.reset (.rcv p) ∈ s.requests ∧ t.rcv = Rcv.reset p := by
  rcases step_cases h with ⟨rs, i, hx⟩ | ⟨rs, rfl⟩ | ⟨rs, q, hm, hq⟩
  · exact (exec_rcv hx).imp_right .inl
  · exact .inl rfl
  · rcases resetUnit_eq_next.mp hq with ⟨p, -, -, rfl⟩ | ⟨p, rfl, hp, rfl⟩ | ⟨u, -, rfl⟩
    · exact .inl rfl
    · exact .inr (.inr ⟨p, hp, hm, rfl⟩)
    · exact .inl (State.putCk_rcv _ _ _)

/-- Settles O50: a move leaves the configuration, and a reset is one that was presented. -/
theorem configurationIsReadOnly : Obligations.ConfigurationIsReadOnly := by
  intro s t h
  constructor
  · rcases step_snd h with hs | hv | ⟨p, -, hm, hp⟩
    · exact .inl (congrArg Snd.cfg hs)
    · exact .inl hv.cfg_eq
    · exact .inr ⟨p, hm, hp⟩
  · rcases step_rcv h with hs | hv | ⟨p, -, hm, hp⟩
    · exact .inl (congrArg Rcv.cfg hs)
    · exact .inl hv.cfg_eq
    · exact .inr ⟨p, hm, hp⟩

end Sys2Proof.Machine
end

section
/-! The invariant of the block (R28, R35, R36): reset meets it, every step keeps it, and what follows from it. -/

namespace Sys2Proof.Machine

/-! ## Reset -/

theorem Snd.inv_reset {p : Params} (h : paramsLegal p = true) : (Snd.reset p).Inv := by
  have hc := Cfg.legal_load h
  obtain ⟨-, -, -, hseq⟩ := Cfg.legal_iff.mp hc
  exact
    { cfg := hc, seq := hseq, buf := rfl, retries := Nat.zero_le _, length := Nat.zero_le _
      idle := fun _ => ⟨rfl, rfl, rfl⟩, wait := nofun, failed := nofun, exhausted := nofun, pending := nofun
      noPending := fun _ => rfl, count := (Nat.mod_eq_of_lt hseq).symm }

theorem Rcv.inv_reset {p : Params} (h : paramsLegal p = true) : (Rcv.reset p).Inv := by
  have hc := Cfg.legal_load h
  obtain ⟨-, hmod, hstart⟩ := Cfg.toNat_load h
  obtain ⟨-, -, -, hseq⟩ := Cfg.legal_iff.mp hc
  have hlast : (Rcv.reset p).lastAcked.toNat
      = ((Rcv.reset p).expected.toNat + (Cfg.load p).seqMod.toNat - 1) % (Cfg.load p).seqMod.toNat := by
    have := Cfg.toNat_ofNat_mod hc (p.startSeq + p.seqMod - 1)
    rw [hmod] at this ⊢
    exact this.trans (by rw [show (Rcv.reset p).expected.toNat = p.startSeq from hstart])
  exact
    { cfg := hc, seq := hseq, lastAcked := hlast, idle := Nat.zero_le _
      run := fun _ => ⟨rfl, (Nat.eq_zero_or_pos _).imp (⟨·, rfl⟩) id⟩, done := nofun, failed := nofun
      count := (Nat.mod_eq_of_lt hseq).symm }

/-- Settles O13: each sequencer's reset meets its invariant, and the checksum registers are 0. -/
theorem resetWithLegalParametersMeetsTheInvariant : Obligations.ResetWithLegalParametersMeetsTheInvariant :=
  fun _ _ hp hq => ⟨Snd.inv_reset hp, Rcv.inv_reset hq, Nat.zero_le _, Nat.zero_le _⟩

/-- Settles O14: the standard parameters are legal. -/
theorem resetStateMeetsTheInvariant : Obligations.ResetStateMeetsTheInvariant :=
  resetWithLegalParametersMeetsTheInvariant _ _ (by decide) (by decide)

/-! ## The pending frame -/

/-- What R28(b) says of the pending frame, in its parts. -/
theorem Snd.pendingOk_iff {u : Snd} : u.pendingOk = true ↔
    4 ≤ u.pendLen ∧ u.pendLen ≤ 4 + u.cfg.maxPayload.toNat
      ∧ ∃ f p, u.pending = some f ∧ decodeFrame u.cfg.maxPayload.toNat f = .parsed u.nextSequence p true := by
  simp only [Snd.pendingOk, hdrLen, Bool.and_eq_true, decide_eq_true_eq, and_assoc]
  refine and_congr_right fun _ => and_congr_right fun _ => ?_
  cases u.pending with
  | none => simp
  | some f => cases hd : decodeFrame u.cfg.maxPayload.toNat f <;> simp [hd]

/-- Every byte of the pending frame holds a value (R27). -/
theorem Snd.Inv.pending_ne_none {u : Snd} (h : u.Inv) (hw : u.state = .wait) : u.pending ≠ none := by
  obtain ⟨hv, -, -⟩ := h.wait hw
  obtain ⟨-, -, f, -, hf, -⟩ := Snd.pendingOk_iff.mp (h.pending hv)
  simp [hf]

/-- A chunk that fits makes a good pending frame (R162, R28(b)). -/
theorem Snd.pendingOk_loaded {u : Snd} {c : Bytes} (hc : c.length ≤ u.cfg.maxPayload.toNat) : (u.loaded c).pendingOk = true := by
  have hdec : decodeFrame u.cfg.maxPayload.toNat (u.loadFrame c) = .parsed u.nextSequence c true :=
    decodeFrame_encodeFrame u.cfg.maxPayload.isLt (encodeFrame_fits _ hc)
  exact Snd.pendingOk_iff.mpr ⟨by simp, by simpa using hc, _, c, Snd.loaded_pending u c, hdec⟩

/-! ## Every step keeps the invariant -/

/-- Every move of unit SND keeps R28. -/
theorem Snd.Inv.of_move {u v : Snd} (h : u.Inv) (hv : u.Move v) : v.Inv := by
  cases hv with
  | loadError hs =>
    exact { h with count := by simpa [Snd.confirmations] using h.count }
  | load c hs hc =>
    obtain ⟨-, -, herr⟩ := h.idle hs
    have hok := Snd.pendingOk_loaded hc
    exact
      { cfg := h.cfg, seq := h.seq, buf := wf_memWrite _ _ h.buf, retries := Nat.zero_le _
        length := by simpa [hdrLen] using hc
        idle := nofun, wait := fun _ => ⟨rfl, herr, Nat.zero_le _⟩, failed := nofun
        exhausted := fun he => (nomatch herr.symm.trans he), pending := fun _ => hok, noPending := nofun
        count := by rw [Snd.confirmations_of_tx (u := u) (Snd.loaded_out u c)]; exact h.count }
  | confirm hs =>
    obtain ⟨-, herr, -⟩ := h.wait hs
    exact
      { cfg := h.cfg, seq := toNat_seqNext_lt h.cfg _, buf := rfl, retries := Nat.zero_le _, length := h.length
        idle := fun _ => ⟨rfl, rfl, herr⟩, wait := nofun, failed := nofun
        exhausted := fun he => (nomatch herr.symm.trans he), pending := nofun, noPending := fun _ => rfl
        count := by
          rw [Snd.confirmations_of_confirmed (u := u) rfl]
          exact toNat_seqNext_count h.cfg h.count }
  | retransmit f labels hs hmax hf =>
    obtain ⟨hval, herr, -⟩ := h.wait hs
    exact
      { h with
        retries := Nat.le_succ_of_le hmax
        idle := fun hi => (nomatch hs.symm.trans hi), wait := fun _ => ⟨hval, herr, hmax⟩
        exhausted := fun he => (nomatch herr.symm.trans he)
        count := by rw [Snd.confirmations_of_tx (u := u) rfl]; exact h.count }
  | exhaust labels hs hmax =>
    obtain ⟨hval, -, hle⟩ := h.wait hs
    exact
      { h with
        retries := Nat.succ_le_succ hle, idle := nofun, wait := nofun, failed := fun _ => .inl rfl
        exhausted := fun _ => ⟨Nat.le_antisymm (Nat.succ_le_succ hle) hmax, hval⟩ }
  | raise e hs he =>
    exact
      { h with
        idle := nofun, wait := nofun, failed := fun _ => .inr he
        exhausted := fun hd => by rcases he with rfl | rfl <;> cases hd }

/-- Every move of unit RCV keeps R35. -/
theorem Rcv.Inv.of_move {u v : Rcv} (h : u.Inv) (hv : u.Move v) : v.Inv := by
  have hrun : u.state = .run → u.err = .noError := fun hs => (h.run hs).1
  cases hv with
  | reject d e hs he =>
    exact
      { h with
        idle := Nat.zero_le _, run := fun _ => ⟨hrun hs, (Nat.eq_zero_or_pos _).imp (⟨·, rfl⟩) id⟩
        count := by rw [Rcv.delivered_reject]; exact h.count }
  | accept d p hs hp =>
    exact
      { h with
        seq := toNat_seqNext_lt h.cfg _, lastAcked := toNat_eq_pred_seqNext h.cfg h.seq
        idle := Nat.zero_le _, run := fun _ => ⟨hrun hs, (Nat.eq_zero_or_pos _).imp (⟨·, rfl⟩) id⟩
        count := by
          rw [Rcv.delivered_accept, List.length_append]
          exact toNat_seqNext_count h.cfg h.count }
  | silence hs h0 => exact { h with }
  | idle hs hpos hne =>
    obtain ⟨herr, hcount⟩ := h.run hs
    have hlt : u.idleCount + 1 < u.cfg.idleLimit := by omega
    exact { h with idle := hlt.le, run := fun _ => ⟨herr, .inr hlt⟩ }
  | idleDone hs heq => exact { h with idle := heq.le, run := nofun, done := fun _ => hrun hs, failed := nofun }
  | closed hs => exact { h with run := nofun, done := nofun, failed := fun _ => rfl }
  | stop hs => exact { h with run := nofun, done := fun _ => hrun hs, failed := nofun }

/-- Writing a canonical value keeps both checksum registers canonical. -/
theorem State.putCk_le {s : State} (hs : s.ckSnd.toNat ≤ 254) (hr : s.ckRcv.toNat ≤ 254) (u : Side) {v : BitVec 8}
    (hv : v.toNat ≤ 254) : (s.putCk u v).ckSnd.toNat ≤ 254 ∧ (s.putCk u v).ckRcv.toNat ≤ 254 := by
  cases u with
  | sender => exact ⟨hv, hr⟩
  | receiver => exact ⟨hs, hv⟩

/-- Every operation keeps R36. -/
theorem exec_ck_le {i : Instr} {s t : State} (h : exec i s = .next t) (hs : s.ckSnd.toNat ≤ 254) (hr : s.ckRcv.toNat ≤ 254) :
    t.ckSnd.toNat ≤ 254 ∧ t.ckRcv.toNat ≤ 254 := by
  cases i with
  | ckClr u =>
    cases h
    exact State.putCk_le hs hr u (Nat.zero_le _)
  | ckAdd u b =>
    cases h
    have hu : (s.ck u).toNat ≤ 254 := by cases u <;> assumption
    have := Nat.mod_lt ((s.ck u).toNat + b.toNat) (by decide : 0 < 255)
    exact State.putCk_le hs hr u (by rw [toNat_ckSum_mod hu]; omega)
  | _ =>
    obtain ⟨h1, h2⟩ := exec_ck_of_ne h (by simp [unitOf])
    rw [h1, h2]
    exact ⟨hs, hr⟩

/-- Every step keeps R36. -/
theorem step_ck_le {s t : State} (h : step s = .next t) (hs : s.ckSnd.toNat ≤ 254) (hr : s.ckRcv.toNat ≤ 254) :
    t.ckSnd.toNat ≤ 254 ∧ t.ckRcv.toNat ≤ 254 := by
  rcases step_cases h with ⟨rs, i, hx⟩ | ⟨rs, rfl⟩ | ⟨rs, q, -, hq⟩
  · exact exec_ck_le hx hs hr
  · exact ⟨hs, hr⟩
  · rcases resetUnit_eq_next.mp hq with ⟨p, -, -, rfl⟩ | ⟨p, -, -, rfl⟩ | ⟨u, -, rfl⟩
    · exact ⟨hs, hr⟩
    · exact ⟨hs, hr⟩
    · exact State.putCk_le (s := s.presenting rs) hs hr u (Nat.zero_le _)

/-- Settles O15: each unit is as before, makes one of its moves, or is reset with legal parameters. -/
theorem stepKeepsTheInvariant : Obligations.StepKeepsTheInvariant := by
  intro s t hs h
  obtain ⟨hckSnd, hckRcv⟩ := step_ck_le h hs.ckSnd hs.ckRcv
  refine ⟨?_, ?_, hckSnd, hckRcv⟩
  · rcases step_snd h with he | hv | ⟨p, hp, -, he⟩
    · exact he ▸ hs.snd
    · exact hs.snd.of_move hv
    · exact he ▸ Snd.inv_reset hp
  · rcases step_rcv h with he | hv | ⟨p, hp, -, he⟩
    · exact he ▸ hs.rcv
    · exact hs.rcv.of_move hv
    · exact he ▸ Rcv.inv_reset hp

/-! ## What follows from the invariant -/

/-- Settles O16: a request could stop on such a byte in WAIT only, where the whole pending frame holds values. -/
theorem noStepReadsAByteWithoutValue : Obligations.NoStepReadsAByteWithoutValue := by
  intro s hs h
  obtain ⟨pre, r, post, -, ha⟩ := step_eq_fault h
  rcases attempt_eq_fault ha with hf | ⟨-, hw, hp⟩
  · cases hf
  · exact hs.snd.pending_ne_none hw hp

/-- The status registers of unit SND under R28. -/
theorem BlockInv.sndStatus {s : State} (h : BlockInv s) : s.sndStatus = (0, 0) ∨ s.sndStatus = (1, 0) ∨ s.sndStatus = (2, 5)
    ∨ s.sndStatus = (2, 6) ∨ s.sndStatus = (2, 8) := by
  cases hst : s.snd.state with
  | idle =>
    obtain ⟨-, -, he⟩ := h.snd.idle hst
    simp [State.sndStatus, hst, he, SndState.code, ErrorCode.code]
  | wait =>
    obtain ⟨-, he, -⟩ := h.snd.wait hst
    simp [State.sndStatus, hst, he, SndState.code, ErrorCode.code]
  | failed => rcases h.snd.failed hst with he | he | he <;> simp [State.sndStatus, hst, he, SndState.code, ErrorCode.code]

/-- The status registers of unit RCV under R35. -/
theorem BlockInv.rcvStatus {s : State} (h : BlockInv s) : s.rcvStatus = (0, 0) ∨ s.rcvStatus = (1, 0) ∨ s.rcvStatus = (2, 6) := by
  cases hst : s.rcv.state with
  | run => simp [State.rcvStatus, hst, (h.rcv.run hst).1, RcvState.code, ErrorCode.code]
  | done => simp [State.rcvStatus, hst, h.rcv.done hst, RcvState.code, ErrorCode.code]
  | failed => simp [State.rcvStatus, hst, h.rcv.failed hst, RcvState.code, ErrorCode.code]

/-- Settles O17: the state after the step meets the invariant. -/
theorem statusRegistersShowTerminalErrorsOnly : Obligations.StatusRegistersShowTerminalErrorsOnly := by
  intro s t hs h
  have ht := stepKeepsTheInvariant s t hs h
  exact ⟨ht.sndStatus, ht.rcvStatus⟩

/-- While a frame is pending, a move keeps it or confirms it: S.LOAD is not enabled (R27, R75). -/
theorem Snd.Move.pending {u v : Snd} (hv : u.Move v) (hi : u.state ≠ .idle) :
    (v.pendValid = u.pendValid ∧ v.pendLen = u.pendLen ∧ v.nextSequence = u.nextSequence ∧ v.pendBuf = u.pendBuf)
    ∨ (v.pendValid = false ∧ v.out = u.out ++ [.confirmed]) := by
  cases hv with
  | loadError hs => exact absurd hs hi
  | load c hs hc => exact absurd hs hi
  | confirm hs => exact .inr ⟨rfl, rfl⟩
  | retransmit f labels hs hmax hf => exact .inl ⟨rfl, rfl, rfl, rfl⟩
  | exhaust labels hs hmax => exact .inl ⟨rfl, rfl, rfl, rfl⟩
  | raise e hs he => exact .inl ⟨rfl, rfl, rfl, rfl⟩

/-- Settles O31: with a frame pending the sender is not in IDLE, so no move loads another. -/
theorem pendingFrameIsNeverModified : Obligations.PendingFrameIsNeverModified := by
  intro s t hs hp h
  have hi : s.snd.state ≠ .idle := fun hi => by simp [(hs.snd.idle hi).1] at hp
  rcases step_snd h with he | hv | ⟨p, -, hm, he⟩
  · rw [he]
    exact .inl ⟨hp, rfl, rfl, fun _ => rfl⟩
  · rcases hv.pending hi with ⟨hval, hlen, hseq, hbuf⟩ | hconf
    · exact .inl ⟨hval.trans hp, hlen, hseq, fun a => by rw [hbuf]⟩
    · exact .inr (.inl hconf)
  · exact .inr (.inr ⟨p, hm, he⟩)

end Sys2Proof.Machine
end

section
/-! What an operation port decodes is for a unit of that side (R20). -/

namespace Sys2Proof

/-- An operation is built for the side that holds its unit, one of a checksum generator for the side asked. -/
theorem Op.side_of_build {o : Op} {u : Side} {arg : Bytes} {i : Instr} (h : o.build u arg = some i) :
    i.side = o.home.getD u := by
  unfold Op.build at h
  split at h <;> cases h <;> rfl

theorem Op.home_of_standsIn {o : Op} {u : Side} (h : o.standsIn u = true) : o.home.getD u = u := by
  unfold Op.standsIn at h
  split at h
  · rename_i hn
    simp [hn]
  · rename_i v hv
    simpa [hv] using h

/-- Bytes at an operation port that decode: a code, its operation standing there, and an operand that fits (R95 to R97). -/
theorem decodeOp_eq_instr {u : Side} {bs : Bytes} {i : Instr} : decodeOp u bs = .instr i ↔
    ∃ b arg o, bs = b :: arg ∧ Op.ofCode b = some o ∧ o.standsIn u = true ∧ o.build u arg = some i := by
  cases bs with
  | nil => simp [decodeOp]
  | cons b arg =>
    cases hb : Op.ofCode b with
    | none => simp [decodeOp, hb]
    | some o =>
      cases hs : o.standsIn u with
      | false => simp [decodeOp, hb, hs]
      | true => cases ha : o.build u arg <;> simp [decodeOp, hb, hs, ha]

/-- Settles O6: the decoder builds no operation whose unit does not stand on that side. -/
theorem instancesHoldTheirUnits : Obligations.InstancesHoldTheirUnits := by
  intro u bs i h
  obtain ⟨b, arg, o, -, -, hs, hb⟩ := decodeOp_eq_instr.mp h
  exact (Op.side_of_build hb).trans (Op.home_of_standsIn hs)

end Sys2Proof
end

section
/-! The two sequencers share nothing (R21, R66), and each one's output list only grows (R65, R71). -/

namespace Sys2Proof.Machine

/-! ## Operations of the two sequencers -/

/-- An operation of SND and then one of RCV: each reads its own unit of the state before, and writes it. -/
theorem andThen_onSnd_onRcv {f : Snd → Out Snd} {g : Rcv → Out Rcv} {s t : State} :
    andThen (s.onSnd (f s.snd)) (fun w => w.onRcv (g w.rcv)) = .next t ↔
      ∃ u v, f s.snd = .next u ∧ g s.rcv = .next v ∧ t = { s with snd := u, rcv := v } := by
  simp only [andThen_eq_next, State.onSnd_eq_next, State.onRcv_eq_next]
  constructor
  · rintro ⟨_, ⟨u, hu, rfl⟩, v, hv, ht⟩
    exact ⟨u, v, hu, hv, ht⟩
  · rintro ⟨u, v, hu, hv, ht⟩
    exact ⟨_, ⟨u, hu, rfl⟩, v, hv, ht⟩

/-- The other order leaves the same state. -/
theorem andThen_onRcv_onSnd {f : Snd → Out Snd} {g : Rcv → Out Rcv} {s t : State} :
    andThen (s.onRcv (g s.rcv)) (fun w => w.onSnd (f w.snd)) = .next t ↔
      ∃ u v, f s.snd = .next u ∧ g s.rcv = .next v ∧ t = { s with snd := u, rcv := v } := by
  simp only [andThen_eq_next, State.onSnd_eq_next, State.onRcv_eq_next]
  constructor
  · rintro ⟨_, ⟨v, hv, rfl⟩, u, hu, ht⟩
    exact ⟨u, v, hu, hv, ht⟩
  · rintro ⟨u, v, hu, hv, ht⟩
    exact ⟨_, ⟨v, hv, rfl⟩, u, hu, ht⟩

/-- What an operation of SND does to it depends on that unit alone (R66). -/
theorem exec_snd_congr {i : Instr} {s s' t : State} (hi : unitOf i = .snd) (hs : s.snd = s'.snd) (h : exec i s = .next t) :
    ∃ t', exec i s' = .next t' ∧ t'.snd = t.snd := by
  obtain ⟨f, hf⟩ := exec_onSnd hi
  obtain ⟨u, hu, rfl⟩ := State.onSnd_eq_next.mp (hf s ▸ h)
  have hx : exec i s' = .next { s' with snd := u } := by rw [hf, ← hs, hu, State.onSnd_next]
  exact ⟨_, hx, rfl⟩

/-- What an operation of RCV does to it depends on that unit alone (R66). -/
theorem exec_rcv_congr {i : Instr} {s s' t : State} (hi : unitOf i = .rcv) (hs : s.rcv = s'.rcv) (h : exec i s = .next t) :
    ∃ t', exec i s' = .next t' ∧ t'.rcv = t.rcv := by
  obtain ⟨g, hg⟩ := exec_onRcv hi
  obtain ⟨v, hv, rfl⟩ := State.onRcv_eq_next.mp (hg s ▸ h)
  have hx : exec i s' = .next { s' with rcv := v } := by rw [hg, ← hs, hv, State.onRcv_next]
  exact ⟨_, hx, rfl⟩

/-- An operation of SND and one of RCV have the same effect in either order (R21). -/
theorem exec_snd_rcv_comm {i j : Instr} {s t : State} (hi : unitOf i = .snd) (hj : unitOf j = .rcv) :
    andThen (exec i s) (exec j) = .next t ↔ andThen (exec j s) (exec i) = .next t := by
  obtain ⟨f, hf⟩ := exec_onSnd hi
  obtain ⟨g, hg⟩ := exec_onRcv hj
  rw [funext hf, funext hg]
  exact andThen_onSnd_onRcv.trans andThen_onRcv_onSnd.symm

/-- Settles O48: an operation of a sequencer is a function of its unit, placed in the state, and the places differ. -/
theorem sequencersShareNothing : Obligations.SequencersShareNothing :=
  ⟨fun _ _ _ _ => exec_snd_congr, fun _ _ _ _ => exec_rcv_congr, fun _ _ _ _ => exec_snd_rcv_comm⟩

/-! ## Output lists -/

/-- A move of unit SND emits at most one event, after those before it. -/
theorem Snd.Move.out_append {u v : Snd} (h : u.Move v) : ∃ new, v.out = u.out ++ new ∧ new.length ≤ 1 := by
  cases h with
  | loadError => exact ⟨[.loadError .payloadTooLarge], rfl, Nat.le_refl 1⟩
  | load c => exact ⟨[.tx (u.loadFrame c)], rfl, Nat.le_refl 1⟩
  | confirm => exact ⟨[.confirmed], rfl, Nat.le_refl 1⟩
  | retransmit f => exact ⟨[.tx f], rfl, Nat.le_refl 1⟩
  | exhaust | raise => exact ⟨[], (List.append_nil _).symm, Nat.zero_le 1⟩

/-- A move of unit RCV emits at most two events, after those before it. -/
theorem Rcv.Move.out_append {u v : Rcv} (h : u.Move v) : ∃ new, v.out = u.out ++ new ∧ new.length ≤ 2 := by
  cases h with
  | reject => exact ⟨[.ackTx u.lastAcked], rfl, Nat.le_succ 1⟩
  | accept d p => exact ⟨[.sink p, .ackTx u.expected], by simp, Nat.le_refl 2⟩
  | silence | idle | idleDone | closed | stop => exact ⟨[], (List.append_nil _).symm, Nat.zero_le 2⟩

/-- Settles O51: a unit a step leaves alone emits nothing, a move appends, and a reset is one that was presented. -/
theorem outputsAreAppendedInOrder : Obligations.OutputsAreAppendedInOrder := by
  intro s t h
  constructor
  · rcases step_snd h with hs | hv | ⟨p, -, hm, hp⟩
    · exact .inl ⟨[], by rw [hs, List.append_nil], Nat.zero_le 1⟩
    · exact .inl hv.out_append
    · exact .inr ⟨p, hm, hp⟩
  · rcases step_rcv h with hs | hv | ⟨p, -, hm, hp⟩
    · exact .inl ⟨[], by rw [hs, List.append_nil], Nat.zero_le 2⟩
    · exact .inl hv.out_append
    · exact .inr ⟨p, hm, hp⟩

end Sys2Proof.Machine
end

section
/-! Decoding and encoding: the operation codes and their operands (R95 to R97), the wire formats (R90, R94), and how the two
directions answer each other. -/

namespace Sys2Proof

/-! ## Operation codes -/

@[simp] theorem Op.ofCode_code (o : Op) : Op.ofCode o.code = some o := by
  cases o <;> rfl

/-- Each operation has one code, all eight bits significant (R95). -/
theorem Op.ofCode_eq_some {b : Byte} {o : Op} : Op.ofCode b = some o ↔ b = o.code := by
  constructor
  · intro h
    exact (beq_iff_eq.mp (List.find?_some (p := fun o : Op => o.code == b) h)).symm
  · rintro rfl
    exact Op.ofCode_code o

/-- A code outside the table stands for no operation (R97). -/
theorem Op.ofCode_eq_none {b : Byte} (h : b ∉ Op.all.map Op.code) : Op.ofCode b = none :=
  List.find?_eq_none.mpr fun o ho hb => h (List.mem_map.mpr ⟨o, ho, beq_iff_eq.mp hb⟩)

/-! ## Operands -/

/-- An operation is built exactly from the operands that fit its form (R96). -/
theorem Op.build_eq_none {o : Op} {u : Side} {arg : Bytes} : o.build u arg = none ↔ o.form.fits arg.length = false := by
  cases o with
  | ckClr | sTimeout | sClosed | sCancel | rTimeout | rClosed | rStop => cases arg <;> simp [Op.build, Op.form, Form.fits]
  | ckAdd => rcases arg with _ | ⟨b, _ | ⟨c, arg⟩⟩ <;> simp [Op.build, Op.form, Form.fits]
  | enc => cases arg <;> simp [Op.build, Op.form, Form.fits]
  | dec | sLoad | sAck | rFrame => simp [Op.build, Op.form, Form.fits]

theorem decodeOp_of_build (o : Op) (u : Side) (arg : Bytes) {i : Instr} (hs : o.standsIn u = true)
    (hb : o.build u arg = some i) : decodeOp u (o.code :: arg) = .instr i :=
  decodeOp_eq_instr.mpr ⟨_, arg, o, rfl, Op.ofCode_code o, hs, hb⟩

theorem decodeOp_reserved (u : Side) {b : Byte} (arg : Bytes) (h : b ∉ Op.all.map Op.code) :
    decodeOp u (b :: arg) = .rejected (.reservedCode b) := by
  simp [decodeOp, Op.ofCode_eq_none h]

/-- An operand that does not fit is rejected for its form where the unit stands (R97). -/
theorem decodeOp_operandForm {o : Op} {u : Side} {arg : Bytes} (hs : o.standsIn u = true)
    (hf : o.form.fits arg.length = false) : decodeOp u (o.code :: arg) = .rejected (.operandForm o.code) := by
  simp [decodeOp, hs, Op.build_eq_none.mpr hf]

/-- An operand that does not fit is rejected at either end (R20, R97). -/
theorem decodeOp_rejected_of_not_fits {o : Op} (u : Side) {arg : Bytes} (hf : o.form.fits arg.length = false) :
    ∃ e, decodeOp u (o.code :: arg) = .rejected e := by
  cases hs : o.standsIn u with
  | true => exact ⟨_, decodeOp_operandForm hs hf⟩
  | false => exact ⟨.noSuchUnit o.code, by simp [decodeOp, hs]⟩

/-- The decoder on one operation's code, with the condition its form puts on the operand (R96). -/
theorem decodeOp_code_eq_ite {o : Op} {u : Side} {arg : Bytes} {i : Instr} {P : Prop} [Decidable P] (hs : o.standsIn u = true)
    (hf : o.form.fits arg.length = true ↔ P) (hb : P → o.build u arg = some i) :
    decodeOp u (o.code :: arg) = if P then .instr i else .rejected (.operandForm o.code) := by
  split
  · rename_i hP
    exact decodeOp_of_build o u arg hs (hb hP)
  · rename_i hP
    exact decodeOp_operandForm hs (Bool.eq_false_iff.mpr (mt hf.mp hP))

/-- The decoder on the code of an operation that takes no operand (R96). -/
theorem decodeOp_code_of_form_none (o : Op) (u : Side) (arg : Bytes) {i : Instr} (hs : o.standsIn u = true)
    (hf : o.form = .none) (hb : o.build u [] = some i) :
    decodeOp u (o.code :: arg) = if arg.length = 0 then .instr i else .rejected (.operandForm o.code) :=
  decodeOp_code_eq_ite hs (by simp [hf, Form.fits]) fun h => List.length_eq_zero_iff.mp h ▸ hb

/-- The decoder on `CK.ADD` (R96): one operand byte. -/
theorem decodeOp_ckAdd (u : Side) (arg : Bytes) : decodeOp u (0x01 :: arg)
    = if arg.length = 1 then .instr (.ckAdd u (arg.headD 0)) else .rejected (.operandForm 0x01) := by
  refine decodeOp_code_eq_ite (o := .ckAdd) rfl (by simp [Op.form, Form.fits]) fun h => ?_
  obtain ⟨b, rfl⟩ := List.length_eq_one_iff.mp h
  rfl

/-- The decoder on `ENC` (R96): a sequence byte, and the payload behind it. -/
theorem decodeOp_enc (arg : Bytes) : decodeOp .sender (0x10 :: arg)
    = if 1 ≤ arg.length then .instr (.enc (arg.headD 0) arg.tail) else .rejected (.operandForm 0x10) := by
  refine decodeOp_code_eq_ite (o := .enc) rfl (by simp [Op.form, Form.fits]) fun h => ?_
  obtain ⟨q, p, rfl⟩ := List.exists_cons_of_length_pos h
  rfl

/-! ## Encoding what was decoded -/

/-- The encoding of an operation is its code and its operand, at the port of its end (R95, R100). -/
theorem Op.encode_of_build {o : Op} {u : Side} {arg : Bytes} {i : Instr} (h : o.build u arg = some i) :
    i.wellFormed = true ∧ encode i = (.op i.side, o.code :: arg) := by
  unfold Op.build at h
  split at h <;> cases h <;> exact ⟨rfl, rfl⟩

/-- A datagram is decoded as format FRAME exactly when its length bytes are those of its payload (R90, R92, R93). -/
theorem decodeFrameLink_eq_frame {d : Bytes} {c q : Byte} {p : Bytes} : decodeFrameLink d = .frame c q p ↔
    p.length < 65536 ∧ d = c :: q :: lengthHi p.length :: lengthLo p.length :: p := by
  constructor
  · intro h
    unfold decodeFrameLink at h
    split at h
    · rename_i hi lo p'
      split at h
      · rename_i hlen
        cases h
        rw [hlen, lengthHi_lengthOf, lengthLo_lengthOf]
        exact ⟨lengthOf_lt hi lo, rfl⟩
      · cases h
    · cases h
  · rintro ⟨hp, rfl⟩
    simp [decodeFrameLink, lengthOf_split hp]

/-- A datagram is decoded as format ACK exactly when it is one byte (R94). -/
theorem decodeAckLink_eq_ack {d : Bytes} {q : Byte} : decodeAckLink d = .ack q ↔ d = [q] := by
  rcases d with _ | ⟨b, _ | ⟨c, d⟩⟩ <;> simp [decodeAckLink]

/-! ## The statements -/

/-- Settles O1, byte string by byte string. -/
theorem writtenOutBytesDecode : Obligations.WrittenOutBytesDecode := by
  unfold Obligations.WrittenOutBytesDecode
  decide

/-- Settles O2: each operation is built back from its operand, and a wire format is read off its bytes. -/
theorem decodeOfEncodeIsTheInstruction : Obligations.DecodeOfEncodeIsTheInstruction := by
  intro i hi
  cases i with
  | ckClr u => exact decodeOp_of_build .ckClr u [] rfl rfl
  | ckAdd u b => exact decodeOp_of_build .ckAdd u [b] rfl rfl
  | enc q p => exact decodeOp_of_build .enc .sender (q :: p) rfl rfl
  | dec d => exact decodeOp_of_build .dec .receiver d rfl rfl
  | sLoad c => exact decodeOp_of_build .sLoad .sender c rfl rfl
  | sAck d => exact decodeOp_of_build .sAck .sender d rfl rfl
  | sTimeout => exact decodeOp_of_build .sTimeout .sender [] rfl rfl
  | sClosed => exact decodeOp_of_build .sClosed .sender [] rfl rfl
  | sCancel => exact decodeOp_of_build .sCancel .sender [] rfl rfl
  | rFrame d => exact decodeOp_of_build .rFrame .receiver d rfl rfl
  | rTimeout => exact decodeOp_of_build .rTimeout .receiver [] rfl rfl
  | rClosed => exact decodeOp_of_build .rClosed .receiver [] rfl rfl
  | rStop => exact decodeOp_of_build .rStop .receiver [] rfl rfl
  | frame c q p => exact congrArg Decoded.instr (decodeFrameLink_eq_frame.mpr ⟨of_decide_eq_true hi, rfl⟩)
  | ack q => exact congrArg Decoded.instr (decodeAckLink_eq_ack.mpr rfl)

/-- Settles O3: an operation port decodes a code and an operand that build the instruction, at its own end (O6). -/
theorem encodeOfDecodeIsTheBytes : Obligations.EncodeOfDecodeIsTheBytes := by
  refine ⟨fun u bs i h => ?_, fun d c q p h => ?_, fun d q h => ?_⟩
  · have hside : i.side = u := instancesHoldTheirUnits u bs i h
    obtain ⟨b, arg, o, rfl, hb, -, hbuild⟩ := decodeOp_eq_instr.mp h
    obtain rfl := Op.ofCode_eq_some.mp hb
    exact hside ▸ Op.encode_of_build hbuild
  · obtain ⟨hp, rfl⟩ := decodeFrameLink_eq_frame.mp (Decoded.instr.inj h)
    exact ⟨hp, rfl⟩
  · obtain rfl := decodeAckLink_eq_ack.mp (Decoded.instr.inj h)
    rfl

/-- Settles O4, code by code. -/
theorem operandFormsAreTheTables : Obligations.OperandFormsAreTheTables := fun arg =>
  ⟨fun u => decodeOp_code_of_form_none .ckClr u arg rfl rfl rfl,
    decodeOp_code_of_form_none .sTimeout .sender arg rfl rfl rfl,
    decodeOp_code_of_form_none .sClosed .sender arg rfl rfl rfl,
    decodeOp_code_of_form_none .sCancel .sender arg rfl rfl rfl,
    decodeOp_code_of_form_none .rTimeout .receiver arg rfl rfl rfl,
    decodeOp_code_of_form_none .rClosed .receiver arg rfl rfl rfl,
    decodeOp_code_of_form_none .rStop .receiver arg rfl rfl rfl,
    fun u => decodeOp_ckAdd u arg,
    decodeOp_of_build .dec .receiver arg rfl rfl,
    decodeOp_of_build .sLoad .sender arg rfl rfl,
    decodeOp_of_build .sAck .sender arg rfl rfl,
    decodeOp_of_build .rFrame .receiver arg rfl rfl,
    decodeOp_enc arg⟩

end Sys2Proof
end

section
/-! The first presented request: what decodes is run if it is enabled, and what does not decode is no step (R97, R226, R235). -/

namespace Sys2Proof.Machine

theorem attempt_of_decode_instr {p : Port} {bs : Bytes} {i : Instr} (h : decode p bs = .instr i) (s : State) :
    attempt (requestOf p bs) s = exec i s := by
  cases p <;> simp [attempt, requestOf, present, presentBytes, h]

theorem attempt_of_decode_rejected {u : Side} {bs : Bytes} {e : DecodeError} (h : decode (.op u) bs = .rejected e) (s : State) :
    attempt (.op u bs) s = .fault (.rejected e) := by
  simp [attempt, present, presentBytes, h]

/-- The first request is served unless it is held. -/
theorem step_of_head {s : State} {r : Request} {rs : List Request} (hreq : s.requests = r :: rs)
    (h : ∀ f, attempt r (s.presenting rs) = .fault f → f.holds = false) : step s = attempt r (s.presenting rs) := by
  simp only [step, serve, hreq, serveFrom, List.nil_append]
  cases ha : attempt r (s.presenting rs) with
  | next t => rfl
  | fault f => simp [h f ha]
  | refused e => rfl

/-- A request that is held, presented alone, leaves the machine without a step for its own reason. -/
theorem step_of_held_alone {s : State} {r : Request} {f : Fault} (hreq : s.requests = [r])
    (ha : attempt r (s.presenting []) = .fault f) (hf : f.holds = true) : step s = .fault f := by
  simp [step, serve, hreq, serveFrom, ha, hf]

/-- Settles O7: an enabled operation stops, if at all, on a byte without value, and such a stop is not held. -/
theorem stepRunsTheDecodedInstruction : Obligations.StepRunsTheDecodedInstruction := by
  intro s p bs rs i hreq hdec hen
  have hat := attempt_of_decode_instr hdec (s.presenting rs)
  rw [← hat]
  refine step_of_head hreq fun f hf => ?_
  rw [hat] at hf
  rcases exec_eq_fault hf with rfl | ⟨rfl, -⟩
  · exact absurd hf hen
  · rfl

/-- Settles O5: the codes of the table are those of `Op.all`, and bytes that are rejected are a held request. -/
theorem reservedEncodingsAreNotEnabled : Obligations.ReservedEncodingsAreNotEnabled := by
  refine ⟨fun u op arg h => decodeOp_reserved u arg h, by decide +kernel, fun u op arg hop hlen => ?_, fun u arg hlen => ?_,
    fun u => decodeOp_rejected_of_not_fits (o := .enc) (arg := []) u rfl,
    fun s u bs e h hreq => step_of_held_alone hreq (attempt_of_decode_rejected h _) rfl⟩
  · obtain ⟨o, ho, rfl⟩ := List.mem_map.mp (show op ∈ (Op.all.filter (·.form == .none)).map Op.code from hop)
    have hform : o.form = .none := beq_iff_eq.mp (List.mem_filter.mp ho).2
    exact decodeOp_rejected_of_not_fits u (by simpa [hform, Form.fits] using hlen)
  · exact decodeOp_rejected_of_not_fits (o := .ckAdd) u (by simp [Op.form, Form.fits, hlen])

end Sys2Proof.Machine
end

section
/-! Frames and acknowledgments on the wire: the header bytes DEC reads, the two wire formats as arrivals, and what a step
emits. -/

namespace Sys2Proof.Machine

/-! ## Header bytes -/

/-- DEC of an assembled frame parses exactly when the payload fits, and gives the parts back (R90, R143 to R145). -/
theorem decodeFrame_assemble_eq_parsed {m : Nat} {c q q' : Byte} {p p' : Bytes} {ok : Bool} (hp : p.length < 65536) :
    decodeFrame m (assemble c q p) = .parsed q' p' ok ↔
      p.length ≤ m ∧ q = q' ∧ p = p' ∧ (csum255 p == c.toNat) = ok := by
  rw [assemble, decodeFrame_header, lengthOf_split hp]
  by_cases hm : p.length ≤ m
  · simp [hm, Nat.not_lt.mpr hm]
  · simp [hm, Nat.lt_of_not_le hm]

/-- Settles O25: a checksum is below 255, and it is computed from the payload alone. -/
theorem headerBytesAndTheChecksum : Obligations.HeaderBytesAndTheChecksum := by
  refine fun m hm => ⟨fun d p q ok h => ?_, fun c q q' hi lo p h => ?_⟩
  · obtain ⟨c, hi, lo, hd, -, -, rfl⟩ := decodeFrame_eq_parsed.mp h
    obtain rfl : 0xFF = c := (List.cons.inj hd).1
    exact beq_eq_false_iff_ne.mpr (csum255_lt p).ne
  · have hdec := decodeFrame_encodeFrame (Nat.lt_succ_of_le hm) h
    obtain ⟨c', hi', lo', hparts, hle, hlen, hok⟩ := decodeFrame_eq_parsed.mp hdec
    cases hparts
    exact decodeFrame_eq_parsed.mpr ⟨c, hi, lo, rfl, hle, hlen, hok⟩

/-! ## A FRAME datagram at the receiver -/

theorem exec_frame (c q : Byte) (p : Bytes) (s : State) :
    exec (.frame c q p) s = s.onRcv (s.rcv.frameArrived (assemble c q p)) := rfl

/-- A datagram that is not rejected is the expected valid frame (R192 to R196). -/
theorem Rcv.rejection_eq_none {u : Rcv} {d : Bytes} : u.rejection d = none ↔
    ∃ p, decodeFrame u.cfg.maxPayload.toNat d = .parsed u.expected p true := by
  cases h : decodeFrame u.cfg.maxPayload.toNat d with
  | malformed => simp [Rcv.rejection, h]
  | parsed q p ok => cases ok <;> simp [Rcv.rejection, h]

/-- Settles O44: the assembled frame is rejected unless its parts are those of the expected valid frame. -/
theorem frameArrivalIsAcceptedOrReacknowledged : Obligations.FrameArrivalIsAcceptedOrReacknowledged := by
  intro s c q p hp
  refine ⟨fun hr hm hc hq => ?_, fun hr hno => ?_, fun hr => ?_⟩
  · have hdec : decodeFrame s.rcv.cfg.maxPayload.toNat (assemble c q p) = .parsed s.rcv.expected p true :=
      (decodeFrame_assemble_eq_parsed hp).mpr ⟨hm, hq, rfl, beq_iff_eq.mpr hc.symm⟩
    rw [exec_frame, State.onRcv_eq_next]
    exact ⟨_, Rcv.frameArrived_eq_next.mpr ⟨hr, .inr ⟨p, hdec, rfl⟩⟩, by simp [Rcv.accept, Rcv.emit, hq, seqNext]⟩
  · have hrej : s.rcv.rejection (assemble c q p) ≠ none := fun hnone => by
      obtain ⟨p', hdec⟩ := Rcv.rejection_eq_none.mp hnone
      obtain ⟨hm, hq, -, hc⟩ := (decodeFrame_assemble_eq_parsed hp).mp hdec
      exact hno ⟨hm, (beq_iff_eq.mp hc).symm, hq⟩
    obtain ⟨e, he⟩ := Option.ne_none_iff_exists'.mp hrej
    exact ⟨e, State.onRcv_eq_next.mpr ⟨_, Rcv.frameArrived_eq_next.mpr ⟨hr, .inl ⟨e, he, rfl⟩⟩, rfl⟩⟩
  · exact State.onRcv_eq_fault.mpr (Rcv.frameArrived_eq_fault.mpr ⟨hr, rfl⟩)

/-! ## An ACK datagram at the sender -/

/-- Settles O45: CONFIRM for the one byte `S.next_sequence`, and RETRY, on either side of its bound, for any other. -/
theorem ackArrivalConfirmsOrRetries : Obligations.AckArrivalConfirmsOrRetries := by
  intro s q
  have hretry : ∀ v, s.snd.state = .wait → q ≠ s.snd.nextSequence → s.snd.retry = .next v →
      exec (.ack q) s = .next { s with snd := v } := fun v hw hq hv =>
    State.onSnd_eq_next.mpr ⟨v, Snd.ackArrived_eq_next.mpr ⟨hw, .inr ⟨by simpa using hq, hv⟩⟩, rfl⟩
  refine ⟨fun hw hq => ?_, fun f hw hq hmax hf => ?_, fun hw hq hmax => ?_, fun hw => ?_⟩
  · exact State.onSnd_eq_next.mpr ⟨_, Snd.ackArrived_eq_next.mpr ⟨hw, .inl ⟨congrArg (fun b => [b]) hq, rfl⟩⟩, rfl⟩
  · exact hretry _ hw hq (Snd.retry_eq_next.mpr (.inr ⟨hmax, f, hf, rfl⟩))
  · exact hretry _ hw hq (Snd.retry_eq_next.mpr (.inl ⟨hmax, rfl⟩))
  · exact State.onSnd_eq_fault.mpr (Snd.ackArrived_eq_fault.mpr (.inl ⟨hw, rfl⟩))

/-! ## What a step emits (R99) -/

/-- DEC accepts the frame of a chunk that fits, with the sender's number (R146, R162). -/
theorem Snd.decodeFrame_loadFrame {u : Snd} {c : Bytes} (hc : c.length ≤ u.cfg.maxPayload.toNat) :
    decodeFrame u.cfg.maxPayload.toNat (u.loadFrame c) = .parsed u.nextSequence c true :=
  decodeFrame_encodeFrame u.cfg.maxPayload.isLt (encodeFrame_fits _ hc)

/-- A move of unit SND transmits only frames that DEC accepts, with the sender's number. -/
theorem Snd.Move.tx_valid {u v : Snd} (h : u.Inv) (hv : u.Move v) : ∃ new, v.out = u.out ++ new ∧
    ∀ f, SndEvent.tx f ∈ new → ∃ p, decodeFrame u.cfg.maxPayload.toNat f = .parsed u.nextSequence p true := by
  cases hv with
  | loadError hs => exact ⟨[.loadError .payloadTooLarge], rfl, by simp⟩
  | load c hs hc => exact ⟨[.tx (u.loadFrame c)], rfl, by simpa using ⟨c, Snd.decodeFrame_loadFrame hc⟩⟩
  | confirm hs => exact ⟨[.confirmed], rfl, by simp⟩
  | retransmit f labels hs hmax hf =>
    obtain ⟨hval, -, -⟩ := h.wait hs
    obtain ⟨-, -, g, p, hg, hdec⟩ := Snd.pendingOk_iff.mp (h.pending hval)
    obtain rfl : g = f := Option.some.inj (hg.symm.trans hf)
    exact ⟨[.tx g], rfl, by simpa using ⟨p, hdec⟩⟩
  | exhaust | raise => exact ⟨[], (List.append_nil _).symm, by simp⟩

/-- A move of unit RCV acknowledges only numbers below `SEQ_MOD`. -/
theorem Rcv.Move.ack_lt {u v : Rcv} (h : u.Inv) (hv : u.Move v) : ∃ new, v.out = u.out ++ new ∧
    ∀ b, RcvEvent.ackTx b ∈ new → b.toNat < u.cfg.seqMod.toNat := by
  cases hv with
  | reject d e hs he =>
    have hlast : u.lastAcked.toNat < u.cfg.seqMod.toNat := h.lastAcked ▸ Nat.mod_lt _ (Nat.zero_lt_of_lt h.seq)
    exact ⟨[.ackTx u.lastAcked], rfl, by simpa using hlast⟩
  | accept d p hs hp => exact ⟨[.sink p, .ackTx u.expected], by simp, by simpa using h.seq⟩
  | silence | idle | idleDone | closed | stop => exact ⟨[], (List.append_nil _).symm, by simp⟩

/-- Settles O46: a unit a step leaves alone or resets emits nothing, and a move emits what the invariant allows. -/
theorem emittedDatagramsAreValid : Obligations.EmittedDatagramsAreValid := by
  refine fun s t hs h => ⟨fun f new hout hf => ?_, fun b new hout hb => ?_⟩
  · rcases step_snd h with he | hv | ⟨p, -, -, he⟩
    · rw [he, List.self_eq_append_right] at hout
      simp [hout] at hf
    · obtain ⟨new', hout', hnew⟩ := hv.tx_valid hs.snd
      obtain rfl : new' = new := List.append_cancel_left (hout'.symm.trans hout)
      obtain ⟨p, hdec⟩ := hnew f hf
      exact ⟨_, p, hv.cfg_eq ▸ hdec, hv.cfg_eq ▸ hs.snd.seq⟩
    · obtain ⟨-, rfl⟩ := List.append_eq_nil_iff.mp (hout.symm.trans (congrArg Snd.out he))
      cases hf
  · rcases step_rcv h with he | hv | ⟨p, -, -, he⟩
    · rw [he, List.self_eq_append_right] at hout
      simp [hout] at hb
    · obtain ⟨new', hout', hnew⟩ := hv.ack_lt hs.rcv
      obtain rfl : new' = new := List.append_cancel_left (hout'.symm.trans hout)
      exact hv.cfg_eq ▸ hnew b hb
    · obtain ⟨-, rfl⟩ := List.append_eq_nil_iff.mp (hout.symm.trans (congrArg Rcv.out he))
      cases hb

end Sys2Proof.Machine
end

section
/-! The checksum generator and the checksum function: what CK.CLR, CK.ADD and CSUM leave in a register, and how a checksum
depends on the bytes of its string. -/

namespace Sys2Proof.Machine

/-! ## The two operations of unit CK -/

theorem exec_ckClr (u : Side) (s : State) : exec (.ckClr u) s = .next (s.putCk u 0) := rfl

theorem exec_ckAdd (u : Side) (b : Byte) (s : State) : exec (.ckAdd u b) s = .next (s.putCk u (ckSum (s.ck u) b)) := rfl

/-- Adding 0x00 or 0xFF to a canonical register leaves it as it is (R124): the two bytes are 0 modulo 255. -/
theorem ckSum_eq_self {acc b : Byte} (h : acc.toNat ≤ 254) (hb : b = 0x00 ∨ b = 0xFF) : ckSum acc b = acc := by
  apply BitVec.eq_of_toNat_eq
  rw [toNat_ckSum_mod h]
  rcases hb with rfl | rfl
  · exact Nat.mod_eq_of_lt (Nat.lt_succ_of_le h)
  · exact (Nat.add_mod_right acc.toNat 255).trans (Nat.mod_eq_of_lt (Nat.lt_succ_of_le h))

/-- Settles O18: CK.CLR writes 0 over whatever the register held. -/
theorem ckClrStartsANewChecksum : Obligations.CkClrStartsANewChecksum := by
  refine fun s => ⟨rfl, rfl, fun u => decodeOp_of_build .ckClr u [] rfl rfl, fun u t h => ?_⟩
  cases h
  rw [exec_ckClr, State.putCk_putCk]

/-- Settles O19: CK.ADD writes the sum of the adder, which on a canonical register is the sum modulo 255. -/
theorem ckAddAddsOneByteModulo255 : Obligations.CkAddAddsOneByteModulo255 := by
  refine fun s u b => ⟨⟨_, exec_ckAdd u b s, toNat_ckSum _ b⟩, fun h => ⟨_, exec_ckAdd u b s, toNat_ckSum_mod h b, ?_⟩,
    fun h hb => ?_, decodeOp_of_build .ckAdd u [b] rfl rfl⟩
  · rw [toNat_ckSum_mod h]
    exact Nat.le_of_lt_succ (Nat.mod_lt _ (by decide))
  · rw [exec_ckAdd, ckSum_eq_self h hb, State.putCk_self]

/-! ## CSUM (R125) -/

/-- The additions of a string, one after another, fold the adder over it and write nothing but their register. -/
theorem execAll_ckAdds (u : Side) (p : Bytes) (s : State) :
    execAll (p.map (.ckAdd u)) s = .next (s.putCk u (p.foldl ckSum (s.ck u))) := by
  induction p generalizing s with
  | nil => rw [List.foldl_nil, State.putCk_self, List.map_nil, execAll]
  | cons b p ih =>
    calc execAll ((b :: p).map (.ckAdd u)) s
      _ = execAll (p.map (.ckAdd u)) (s.putCk u (ckSum (s.ck u) b)) := rfl
      _ = .next (s.putCk u ((b :: p).foldl ckSum (s.ck u))) := by
        rw [ih, State.putCk_ck, State.putCk_putCk, List.foldl_cons]

theorem execAll_csumOps (u : Side) (p : Bytes) (s : State) :
    execAll (csumOps u p) s = .next (s.putCk u (p.foldl ckSum 0)) := by
  calc execAll (csumOps u p) s
    _ = execAll (p.map (.ckAdd u)) (s.putCk u 0) := rfl
    _ = .next (s.putCk u (p.foldl ckSum 0)) := by rw [execAll_ckAdds, State.putCk_ck, State.putCk_putCk]

/-- The adder folded over a string from a canonical value adds the checksum of the string modulo 255 (R122(b)). -/
theorem toNat_foldl_ckSum (p : Bytes) {acc : Byte} (h : acc.toNat ≤ 254) :
    (p.foldl ckSum acc).toNat = (acc.toNat + csum255 p) % 255 := by
  induction p generalizing acc with
  | nil => exact (Nat.mod_eq_of_lt (Nat.lt_succ_of_le h)).symm
  | cons b p ih =>
    have hsum := toNat_ckSum_mod h b
    have hle : (ckSum acc b).toNat ≤ 254 := by omega
    rw [List.foldl_cons, ih hle, hsum, csum255_cons]
    omega

/-- Settles O20: from the cleared register the streamed additions end in the checksum of the whole string. -/
theorem csumLeavesTheChecksumOfTheString : Obligations.CsumLeavesTheChecksumOfTheString := by
  refine fun s u p => ⟨_, execAll_csumOps u p s, ?_⟩
  calc (p.foldl ckSum 0).toNat
    _ = (0 + csum255 p) % 255 := toNat_foldl_ckSum p (Nat.zero_le _)
    _ = csum255 p := by rw [Nat.zero_add, Nat.mod_eq_of_lt (csum255_lt p)]

/-! ## The laws of the checksum (R122) -/

/-- The checksum is a sum, so the order of the bytes does not show (R122(c)). -/
theorem csum255_perm {a b : Bytes} (h : a.Perm b) : csum255 a = csum255 b :=
  congrArg (· % csumMod) (h.map BitVec.toNat).sum_eq

/-- The part of one byte in the checksum, wherever it stands. -/
theorem csum255_middle (a b : Bytes) (x : Byte) : csum255 (a ++ x :: b) = (x.toNat + csum255 (a ++ b)) % 255 :=
  (csum255_perm List.perm_middle).trans (csum255_cons x (a ++ b))

/-- A byte that is 0 modulo 255 does not show (R122(d)). -/
theorem csum255_middle_eq_self (a b : Bytes) {x : Byte} (hx : x = 0x00 ∨ x = 0xFF) :
    csum255 (a ++ x :: b) = csum255 (a ++ b) := by
  have hlt := csum255_lt (a ++ b)
  have hmod : x.toNat % 255 = 0 := by rcases hx with rfl | rfl <;> rfl
  rw [csum255_middle]
  omega

/-- Two bytes agree modulo 255 exactly when they are equal, or are 0x00 and 0xFF. -/
theorem toNat_mod_255_inj {x y : Byte} : x.toNat % 255 = y.toNat % 255 ↔
    x = y ∨ (x = 0x00 ∧ y = 0xFF) ∨ (x = 0xFF ∧ y = 0x00) := by
  have hx := x.isLt
  have hy := y.isLt
  bv_omega

/-- Replacing one byte is unseen exactly when the two bytes agree modulo 255 (R122(e)). -/
theorem csum255_middle_inj (a b : Bytes) {x y : Byte} :
    csum255 (a ++ x :: b) = csum255 (a ++ y :: b) ↔ x.toNat % 255 = y.toNat % 255 := by
  rw [csum255_middle, csum255_middle]
  exact Nat.ModEq.add_iff_right rfl

/-- Settles O21: a checksum is a sum modulo 255, in which one byte counts by its residue. -/
theorem checksumLaws : Obligations.ChecksumLaws :=
  ⟨csum255_append, fun _ _ => csum255_perm, fun a b _ => csum255_middle_eq_self a b,
    fun a b _ _ => (csum255_middle_inj a b).trans toNat_mod_255_inj⟩

end Sys2Proof.Machine
end

section
/-! Unit CODEC at its two function ports: the frame ENC returns, what DEC returns, and how each takes the other's answer. -/

namespace Sys2Proof

/-- Bits 15:8 of a 16-bit length, as a number (R92). -/
theorem toNat_lengthHi {n : Nat} (h : n < 65536) : (lengthHi n).toNat = n / 256 :=
  Nat.mod_eq_of_lt (Nat.div_lt_of_lt_mul h)

/-- Bits 7:0 of a length, as a number (R92). -/
theorem toNat_lengthLo (n : Nat) : (lengthLo n).toNat = n % 256 := Nat.mod_mod n 256

namespace Machine

/-! ## The two operations -/

theorem exec_enc (q : Byte) (p : Bytes) (s : State) :
    exec (.enc q p) s = .next { s with encOut := s.encOut ++ [encodeFrame s.snd.cfg.maxPayload.toNat q p] } := rfl

theorem exec_dec (d : Bytes) (s : State) :
    exec (.dec d) s = .next { s with decOut := s.decOut ++ [decodeFrame s.rcv.cfg.maxPayload.toNat d] } := rfl

/-! ## Frames -/

/-- A header with the payload's own length is the one of the assembled frame (R90, R92). -/
theorem assemble_of_length (c q : Byte) {hi lo : Byte} {p : Bytes} (h : p.length = lengthOf hi lo) :
    assemble c q p = c :: q :: hi :: lo :: p := by
  rw [assemble, h, lengthHi_lengthOf, lengthLo_lengthOf]

/-- ENC makes a frame exactly of a payload that fits (R141). -/
theorem encodeFrame_eq_frame {m : Nat} {q : Byte} {p f : Bytes} :
    encodeFrame m q p = .frame f ↔ p.length ≤ m ∧ f = assemble (toByte (csum255 p)) q p := by
  by_cases h : p.length ≤ m
  · simp [encodeFrame_fits q h, h, eq_comm]
  · simp [encodeFrame_tooLarge q (Nat.lt_of_not_le h), h]

/-- The checksum byte of a frame is never 0xFF (R98(b), R121). -/
theorem toByte_csum255_ne (p : Bytes) : toByte (csum255 p) ≠ 0xFF := fun h =>
  (csum255_lt p).ne ((toNat_toByte_csum255 p).symm.trans (congrArg BitVec.toNat h))

/-- `checksum_ok` says that the stored byte is the one ENC stores (R145). -/
theorem csum255_beq_toNat {p : Bytes} {c : Byte} : (csum255 p == c.toNat) = true ↔ c = toByte (csum255 p) := by
  rw [beq_iff_eq, eq_comm, ← BitVec.toNat_inj, toNat_toByte_csum255]

/-! ## The statements -/

/-- Settles O22: the header ENC writes is read off its assembled frame, whose length field is wide enough for MAX_PAYLOAD. -/
theorem encReturnsTheFrame : Obligations.EncReturnsTheFrame := by
  refine fun s q p => ⟨fun h => ?_, fun h => ?_, decodeOp_of_build .enc .sender (q :: p) rfl rfl⟩
  · rw [exec_enc, encodeFrame_tooLarge q h]
  · have hp : p.length < 65536 := h.trans_lt s.snd.cfg.maxPayload.isLt
    refine ⟨toByte (csum255 p), lengthHi p.length, lengthLo p.length, ?_, toNat_toByte_csum255 p, toByte_csum255_ne p,
      toNat_lengthHi hp, toNat_lengthLo p.length⟩
    rw [exec_enc, encodeFrame_fits q h, assemble]

/-- Settles O23: a datagram is too short for a header, or its header's length decides. -/
theorem decParsesAndValidates : Obligations.DecParsesAndValidates := by
  refine fun s => ⟨fun d h => ?_, fun c q hi lo p h => ?_, fun c q hi lo p hm hlen => ?_,
    fun d => decodeOp_of_build .dec .receiver d rfl rfl⟩
  · rw [exec_dec, decodeFrame_short h]
  · rw [exec_dec, decodeFrame_header, lengthOf, if_pos h]
  · rw [exec_dec, decodeFrame_eq_parsed.mpr ⟨c, hi, lo, rfl, hm, hlen, rfl⟩]
    rfl

/-- Settles O24: a datagram that parses is the assembled frame of its parts but for byte 0, which `checksum_ok` compares. -/
theorem codecRoundTrip : Obligations.CodecRoundTrip := by
  refine fun m hm => ⟨fun q p f => decodeFrame_encodeFrame (Nat.lt_succ_of_le hm), fun q p => ?_, fun d p q ok h => ?_⟩
  · simp [encodeFrame_eq_frame]
  · obtain ⟨c, hi, lo, rfl, hle, hlen, rfl⟩ := decodeFrame_eq_parsed.mp h
    refine ⟨toByte (csum255 p), encodeFrame_eq_frame.mpr ⟨hlen.trans_le hle, ?_⟩, ?_⟩
    · rw [assemble_of_length _ q hlen, List.tail_cons]
    · rw [csum255_beq_toNat, List.tail_cons, List.cons.injEq, and_iff_left rfl]

end Machine

end Sys2Proof
end

section
/-! Unit SND, operation by operation: S.LOAD, S.ACK and S.TIMEOUT with RETRY, S.CLOSED and S.CANCEL, and the transitions of
S.state (R161 to R168). -/

namespace Sys2Proof.Machine

/-! ## Each operation in the whole state -/

/-- S.LOAD of a chunk that fits, in the whole state (R162). -/
theorem exec_sLoad_fits {s : State} {c : Bytes} (hs : s.snd.state = .idle) (hc : c.length ≤ s.snd.cfg.maxPayload.toNat) :
    exec (.sLoad c) s = .next { s with snd := s.snd.loaded c } :=
  State.onSnd_eq_next.mpr ⟨_, Snd.load_eq_next.mpr ⟨hs, .inr ⟨hc, rfl⟩⟩, rfl⟩

/-- S.ACK of a datagram that does not match is RETRY (R163). -/
theorem exec_sAck_of_retry {s : State} {d : Bytes} {v : Snd} (hw : s.snd.state = .wait) (hd : d ≠ [s.snd.nextSequence])
    (h : s.snd.retry = .next v) : exec (.sAck d) s = .next { s with snd := v } :=
  State.onSnd_eq_next.mpr ⟨v, Snd.ackArrived_eq_next.mpr ⟨hw, .inr ⟨hd, h⟩⟩, rfl⟩

/-- S.TIMEOUT is RETRY with its label (R166). -/
theorem exec_sTimeout_of_retry {s : State} {v : Snd} (hw : s.snd.state = .wait)
    (h : (s.snd.classify .channelTimeout).retry = .next v) : exec .sTimeout s = .next { s with snd := v } :=
  State.onSnd_eq_next.mpr ⟨v, Snd.timedOut_eq_next.mpr ⟨hw, h⟩, rfl⟩

/-- Settles O26: the buffer after MemWrite reads as the frame inside it and as before outside it. -/
theorem sLoadStoresAndTransmits : Obligations.SLoadStoresAndTransmits := by
  refine fun s c => ⟨fun hs hc => ?_, fun hs hc => ?_, fun hs => ?_, decodeOp_of_build .sLoad .sender c rfl rfl⟩
  · have hread := fun a => read_memWrite s.snd.pendBuf 0 a (s.snd.loadFrame c)
    refine ⟨toByte (csum255 c), lengthHi c.length, lengthLo c.length, memWrite s.snd.pendBuf 0 (s.snd.loadFrame c),
      s.snd.loadFrame c, rfl, toNat_toByte_csum255 c, toNat_lengthHi (hc.trans_lt s.snd.cfg.maxPayload.isLt),
      toNat_lengthLo c.length, ?_, fun a ha => ?_, fun a ha => ?_⟩
    · rw [exec_sLoad_fits hs hc, ← Snd.loaded_pendLen s.snd c]
      rfl
    · rw [hread, if_pos ⟨Nat.zero_le a, by omega⟩, Nat.sub_zero]
    · rw [hread, if_neg (by omega)]
  · exact State.onSnd_eq_next.mpr ⟨_, Snd.load_eq_next.mpr ⟨hs, .inl ⟨hc, rfl⟩⟩, rfl⟩
  · exact State.onSnd_eq_fault.mpr (Snd.load_eq_fault.mpr ⟨hs, rfl⟩)

/-- Settles O27: CONFIRM for the one matching datagram, and RETRY, on either side of its bound, for any other. -/
theorem sAckConfirmsOrRetries : Obligations.SAckConfirmsOrRetries := by
  refine fun s d => ⟨fun hw hd => ?_, fun f hw hd hmax hf => ?_, fun hw hd hmax => ?_, fun hw => ?_,
    decodeOp_of_build .sAck .sender d rfl rfl⟩
  · exact State.onSnd_eq_next.mpr ⟨_, Snd.ackArrived_eq_next.mpr ⟨hw, .inl ⟨hd, rfl⟩⟩, rfl⟩
  · exact exec_sAck_of_retry hw hd (Snd.retry_eq_next.mpr (.inr ⟨hmax, f, hf, rfl⟩))
  · exact exec_sAck_of_retry hw hd (Snd.retry_eq_next.mpr (.inl ⟨hmax, rfl⟩))
  · exact State.onSnd_eq_fault.mpr (Snd.ackArrived_eq_fault.mpr (.inl ⟨hw, rfl⟩))

/-- Settles O28: RETRY of the unit with its label, on either side of the bound. -/
theorem sTimeoutRetransmitsOrFails : Obligations.STimeoutRetransmitsOrFails := by
  refine fun s => ⟨fun f hw hmax hf => ?_, fun hw hmax => ?_, fun hw => ?_, decodeOp_of_build .sTimeout .sender [] rfl rfl⟩
  · exact exec_sTimeout_of_retry hw (Snd.retry_eq_next.mpr (.inr ⟨hmax, f, hf, rfl⟩))
  · exact exec_sTimeout_of_retry hw (Snd.retry_eq_next.mpr (.inl ⟨hmax, rfl⟩))
  · exact State.onSnd_eq_fault.mpr (Snd.timedOut_eq_fault.mpr (.inl ⟨hw, rfl⟩))

/-- Settles O29: each of the two raises its code in every state but FAILED. -/
theorem sClosedAndSCancelEnterFailed : Obligations.SClosedAndSCancelEnterFailed := by
  refine fun s => ⟨fun hs => ?_, fun hs => ⟨?_, ?_⟩, decodeOp_of_build .sClosed .sender [] rfl rfl,
    decodeOp_of_build .sCancel .sender [] rfl rfl, rfl, rfl, rfl⟩
  · have hf : s.snd.state ≠ .failed := by rcases hs with hs | hs <;> simp [hs]
    exact ⟨State.onSnd_eq_next.mpr ⟨_, Snd.closed_eq_next.mpr ⟨hf, rfl⟩, rfl⟩,
      State.onSnd_eq_next.mpr ⟨_, Snd.cancel_eq_next.mpr ⟨hf, rfl⟩, rfl⟩⟩
  · exact State.onSnd_eq_fault.mpr (Snd.closed_eq_fault.mpr ⟨hs, rfl⟩)
  · exact State.onSnd_eq_fault.mpr (Snd.cancel_eq_fault.mpr ⟨hs, rfl⟩)

/-! ## RETRY, for S.ACK and S.TIMEOUT alike -/

/-- An S.TIMEOUT and an S.ACK that does not match make the same RETRY in WAIT, their labels aside (R165). -/
theorem retry_of_exec {s t : State} {i : Instr} (hi : i = .sTimeout ∨ ∃ d, d ≠ [s.snd.nextSequence] ∧ i = .sAck d)
    (h : exec i s = .next t) :
    s.snd.state = .wait ∧ ∃ labels, Snd.retry { s.snd with classes := labels } = .next t.snd := by
  rcases hi with rfl | ⟨d, hd, rfl⟩
  · obtain ⟨v, hv, rfl⟩ := State.onSnd_eq_next.mp h
    obtain ⟨hw, hr⟩ := Snd.timedOut_eq_next.mp hv
    exact ⟨hw, _, hr⟩
  · obtain ⟨v, hv, rfl⟩ := State.onSnd_eq_next.mp h
    obtain ⟨hw, ⟨hd', -⟩ | ⟨-, hr⟩⟩ := Snd.ackArrived_eq_next.mp hv
    · exact absurd hd' hd
    · exact ⟨hw, _, hr⟩

/-- Settles O30: both branches of RETRY write the retry count, and neither writes the pending frame. -/
theorem retryKeepsThePendingFrame : Obligations.RetryKeepsThePendingFrame := by
  intro s t i hi h
  obtain ⟨hw, labels, hr⟩ := retry_of_exec hi h
  rcases Snd.retry_eq_next.mp hr with ⟨hmax, ht⟩ | ⟨hmax, f, hf, ht⟩
  · rw [ht]
    exact ⟨rfl, rfl, rfl, rfl, fun _ => rfl, .inr ⟨rfl, rfl, hmax, rfl⟩⟩
  · rw [ht]
    exact ⟨rfl, rfl, rfl, rfl, fun _ => rfl, .inl ⟨hw, rfl, hmax, f, hf, rfl⟩⟩

/-! ## The transitions of S.state (R161) -/

/-- The two transitions RETRY makes out of WAIT, under a condition `p` on what was presented. -/
theorem Snd.transitions_of_retry {u v : Snd} {labels : List ErrorCode} {p : Prop} (hw : u.state = .wait) (hp : p)
    (h : Snd.retry { u with classes := labels } = .next v) :
    (u.state = .wait ∧ v.state = .wait ∧ u.retryCount < u.cfg.maxRetry ∧ p ∧ ∃ f, v.out = u.out ++ [.tx f])
    ∨ (u.state = .wait ∧ v.state = .failed ∧ v.err = .deliveryFailed ∧ u.cfg.maxRetry ≤ u.retryCount ∧ p ∧ v.out = u.out) := by
  rcases Snd.retry_eq_next.mp h with ⟨hmax, rfl⟩ | ⟨hmax, f, -, rfl⟩
  · exact .inr ⟨hw, rfl, rfl, Nat.le_of_lt_succ hmax, hp, rfl⟩
  · exact .inl ⟨hw, hw, hmax, hp, f, rfl⟩

/-- Settles O32: each operation's two or three outcomes, row by row of R161. -/
theorem senderTransitionTable : Obligations.SenderTransitionTable := by
  intro s t i hi h
  cases i with
  | sLoad c =>
    obtain ⟨v, hv, rfl⟩ := State.onSnd_eq_next.mp h
    obtain ⟨hs, ⟨hc, rfl⟩ | ⟨hc, rfl⟩⟩ := Snd.load_eq_next.mp hv
    · exact .inr (.inl ⟨hs, rfl, c, rfl, hc⟩)
    · exact .inl ⟨hs, rfl, ⟨c, rfl, hc⟩, _, rfl⟩
  | sAck d =>
    obtain ⟨v, hv, rfl⟩ := State.onSnd_eq_next.mp h
    obtain ⟨hw, ⟨rfl, rfl⟩ | ⟨hd, hr⟩⟩ := Snd.ackArrived_eq_next.mp hv
    · exact .inr (.inr (.inl ⟨hw, rfl, .inr rfl, rfl⟩))
    · exact .inr (.inr (.inr ((Snd.transitions_of_retry hw (.inr (.inr ⟨d, hd, rfl⟩)) hr).imp_right .inl)))
  | ack q =>
    obtain ⟨v, hv, rfl⟩ := State.onSnd_eq_next.mp h
    obtain ⟨hw, ⟨hq, rfl⟩ | ⟨hq, hr⟩⟩ := Snd.ackArrived_eq_next.mp hv
    · exact .inr (.inr (.inl ⟨hw, rfl, .inl (congrArg Instr.ack (List.singleton_inj.mp hq)), rfl⟩))
    · have hne : q ≠ s.snd.nextSequence := fun he => hq (congrArg (fun b => [b]) he)
      exact .inr (.inr (.inr ((Snd.transitions_of_retry hw (.inr (.inl ⟨q, hne, rfl⟩)) hr).imp_right .inl)))
  | sTimeout =>
    obtain ⟨v, hv, rfl⟩ := State.onSnd_eq_next.mp h
    obtain ⟨hw, hr⟩ := Snd.timedOut_eq_next.mp hv
    exact .inr (.inr (.inr ((Snd.transitions_of_retry hw (.inl rfl) hr).imp_right .inl)))
  | sClosed =>
    obtain ⟨v, hv, rfl⟩ := State.onSnd_eq_next.mp h
    obtain ⟨hs, rfl⟩ := Snd.closed_eq_next.mp hv
    exact .inr (.inr (.inr (.inr (.inr (.inl ⟨hs, rfl, rfl⟩)))))
  | sCancel =>
    obtain ⟨v, hv, rfl⟩ := State.onSnd_eq_next.mp h
    obtain ⟨hs, rfl⟩ := Snd.cancel_eq_next.mp hv
    exact .inr (.inr (.inr (.inr (.inr (.inr ⟨hs, rfl, rfl⟩)))))
  | _ => cases hi

end Sys2Proof.Machine
end

section
/-! The answers that may end a wait of the sender, and how many of them a wait can take (R172). -/

namespace Sys2Proof.Machine

/-! ## Answers -/

/-- What an answer does is a move of unit SND. -/
theorem Answer.exec_move {a : Answer} {s t : State} (h : exec a.instr s = .next t) : s.snd.Move t.snd := by
  cases a with
  | datagram d => exact State.onSnd_move h fun _ => .of_ackArrived
  | timeout => exact State.onSnd_move h fun _ => .of_timedOut
  | closed => exact State.onSnd_move h fun _ => .of_closed
  | cancel => exact State.onSnd_move h fun _ => .of_cancel

/-- A datagram and a timeout are taken in WAIT only (R163, R166). -/
theorem Answer.wait_of_exec {a : Answer} {s t : State} (ha : a.ofReceive = true) (h : exec a.instr s = .next t) :
    s.snd.state = .wait := by
  cases a with
  | datagram d =>
    obtain ⟨v, hv, -⟩ := State.onSnd_eq_next.mp h
    exact (Snd.ackArrived_eq_next.mp hv).1
  | timeout =>
    obtain ⟨v, hv, -⟩ := State.onSnd_eq_next.mp h
    exact (Snd.timedOut_eq_next.mp hv).1
  | closed | cancel => cases ha

/-- A move that stays in WAIT is one more retry within the bound (R165). -/
theorem Snd.Move.retryCount_of_wait {u v : Snd} (hv : u.Move v) (hu : u.state = .wait) (hw : v.state = .wait) :
    v.retryCount = u.retryCount + 1 ∧ v.retryCount ≤ u.cfg.maxRetry := by
  cases hv with
  | loadError hs | load c hs hc => exact nomatch hu.symm.trans hs
  | confirm | exhaust | raise => cases hw
  | retransmit f labels hs hmax hf => exact ⟨rfl, hmax⟩

/-! ## Answers that do not match -/

/-- An answer that does not match is a RETRY in WAIT, its label aside (R163, R166). -/
theorem Answer.exec_wrong {a : Answer} {s : State} (hw : s.snd.state = .wait) (ha : a.wrongFor s.snd.nextSequence = true) :
    ∃ labels, ∀ v, Snd.retry { s.snd with classes := labels } = .next v → exec a.instr s = .next { s with snd := v } := by
  cases a with
  | datagram d => exact ⟨_, fun _ hv => exec_sAck_of_retry hw (of_decide_eq_true ha) hv⟩
  | timeout => exact ⟨_, fun _ hv => exec_sTimeout_of_retry hw hv⟩
  | closed | cancel => cases ha

/-- One answer that does not match for each retry left, and one more: each but the last retransmits the same frame, and the
last is fatal (R172). -/
theorem execAll_wrong {f : Bytes} {as : List Answer} {s : State} (hw : s.snd.state = .wait)
    (hmax : s.snd.retryCount ≤ s.snd.cfg.maxRetry) (hf : s.snd.pending = some f)
    (has : ∀ a ∈ as, a.wrongFor s.snd.nextSequence = true) (hlen : as.length = s.snd.cfg.maxRetry + 1 - s.snd.retryCount) :
    ∃ t, execAll (as.map Answer.instr) s = .next t ∧ t.snd.state = .failed ∧ t.snd.err = .deliveryFailed
      ∧ t.snd.retryCount = s.snd.cfg.maxRetry + 1
      ∧ t.snd.frames = s.snd.frames ++ List.replicate (s.snd.cfg.maxRetry - s.snd.retryCount) f := by
  induction as generalizing s with
  | nil =>
    rw [List.length_nil] at hlen
    omega
  | cons a as ih =>
    obtain ⟨ha, has⟩ := List.forall_mem_cons.mp has
    obtain ⟨labels, hx⟩ := Answer.exec_wrong hw ha
    rw [List.length_cons] at hlen
    rw [List.map_cons, execAll_cons]
    rcases Nat.lt_or_eq_of_le hmax with hlt | heq
    · rw [hx _ (Snd.retry_eq_next.mpr (.inr ⟨hlt, f, hf, rfl⟩)), andThen_next]
      obtain ⟨t, ht, hst, herr, hcount, hframes⟩ := ih
        (s := { s with snd := { s.snd with classes := labels, retryCount := s.snd.retryCount + 1, out := s.snd.out ++ [.tx f] } })
        hw hlt hf has (by simp only; omega)
      refine ⟨t, ht, hst, herr, hcount, ?_⟩
      have hleft : s.snd.cfg.maxRetry - s.snd.retryCount = s.snd.cfg.maxRetry - (s.snd.retryCount + 1) + 1 := by omega
      rw [hframes, Snd.frames_of_tx (u := s.snd) rfl, List.append_assoc, hleft, List.replicate_succ, List.singleton_append]
    · obtain rfl : as = [] := List.length_eq_zero_iff.mp (by omega)
      rw [hx _ (Snd.retry_eq_next.mpr (.inl ⟨Nat.lt_succ_of_le heq.ge, rfl⟩)), andThen_next]
      exact ⟨_, rfl, rfl, rfl, congrArg (· + 1) heq, by rw [heq, Nat.sub_self, List.replicate_zero, List.append_nil]; rfl⟩

/-! ## Answers that leave the unit in WAIT -/

/-- A unit that is in WAIT after datagrams and timeouts was in WAIT before them: outside WAIT they are not enabled. -/
theorem wait_of_execAll {as : List Answer} {s t : State} (has : ∀ a ∈ as, a.ofReceive = true)
    (h : execAll (as.map Answer.instr) s = .next t) (ht : t.snd.state = .wait) : s.snd.state = .wait := by
  cases as with
  | nil =>
    cases h
    exact ht
  | cons a as =>
    rw [List.map_cons, execAll_cons] at h
    obtain ⟨r, hr, -⟩ := andThen_eq_next.mp h
    exact Answer.wait_of_exec (has a List.mem_cons_self) hr

/-- Each answer that leaves the unit in WAIT has counted a retry (R172). -/
theorem length_le_of_execAll_wait {as : List Answer} {s t : State} (has : ∀ a ∈ as, a.ofReceive = true)
    (h : execAll (as.map Answer.instr) s = .next t) (ht : t.snd.state = .wait) :
    as.length ≤ s.snd.cfg.maxRetry - s.snd.retryCount := by
  induction as generalizing s with
  | nil => exact Nat.zero_le _
  | cons a as ih =>
    obtain ⟨ha, has⟩ := List.forall_mem_cons.mp has
    rw [List.map_cons, execAll_cons] at h
    obtain ⟨r, hr, hrest⟩ := andThen_eq_next.mp h
    have hmove := Answer.exec_move hr
    obtain ⟨hcount, hle⟩ := hmove.retryCount_of_wait (Answer.wait_of_exec ha hr) (wait_of_execAll has hrest ht)
    have hih := ih has hrest
    rw [hmove.cfg_eq] at hih
    rw [List.length_cons]
    omega

/-- Settles O33, by induction on the answers in each half. -/
theorem boundedRetryTermination : Obligations.BoundedRetryTermination :=
  fun _ _ hw hmax hf => ⟨fun _ => execAll_wrong hw hmax hf, fun _ _ => length_le_of_execAll_wait⟩

end Sys2Proof.Machine
end

section
/-! CHUNKS (R170): the chunk at each place, and so how many there are. -/

namespace Sys2Proof.Machine

/-- Chunk `i` holds the bytes from offset `i * m` on, if there are any, as long as the fuel covers the string. -/
theorem getElem?_chunksFuel {m n : Nat} {d : Bytes} (hm : 1 ≤ m) (hn : d.length ≤ n) (i : Nat) :
    (chunksFuel m n d)[i]? = if i * m < d.length then some ((d.drop (i * m)).take m) else none := by
  induction n generalizing d i with
  | zero => simp [List.length_eq_zero_iff.mp (Nat.le_zero.mp hn), chunksFuel]
  | succ n ih =>
    cases d with
    | nil => simp [chunksFuel]
    | cons b d =>
      have hrest : ((b :: d).drop m).length ≤ n := by
        rw [List.length_drop]
        omega
      cases i with
      | zero => simp [chunksFuel]
      | succ i =>
        have hlt : i * m < ((b :: d).drop m).length ↔ (i + 1) * m < (b :: d).length := by
          rw [List.length_drop, Nat.succ_mul]
          omega
        rw [chunksFuel, List.getElem?_cons_succ, ih hrest, List.drop_drop, Nat.add_comm m, ← Nat.succ_mul, if_congr hlt rfl rfl]

theorem getElem?_chunks {m : Nat} (hm : 1 ≤ m) (d : Bytes) (i : Nat) :
    (chunks m d)[i]? = if i * m < d.length then some ((d.drop (i * m)).take m) else none :=
  getElem?_chunksFuel hm (Nat.le_refl _) i

/-- There is a chunk `i` exactly when the string reaches beyond offset `i * m`. -/
theorem lt_length_chunks {m : Nat} (hm : 1 ≤ m) {d : Bytes} {i : Nat} : i < (chunks m d).length ↔ i * m < d.length := by
  have h := getElem?_chunks hm d i
  by_cases hi : i * m < d.length
  · rw [if_pos hi] at h
    exact iff_of_true (List.getElem?_eq_some_iff.mp h).1 hi
  · rw [if_neg hi] at h
    exact iff_of_false (Nat.not_lt.mpr (List.getElem?_eq_none_iff.mp h)) hi

theorem length_chunks {m : Nat} (hm : 1 ≤ m) (d : Bytes) : (chunks m d).length = (d.length + m - 1) / m := by
  refine eq_of_forall_lt_iff fun i => (lt_length_chunks hm).trans ?_
  rw [Nat.lt_div_iff_mul_lt hm, Nat.add_sub_assoc hm, Nat.add_sub_cancel]

theorem flatten_chunksFuel {m n : Nat} {d : Bytes} (hm : 1 ≤ m) (hn : d.length ≤ n) : (chunksFuel m n d).flatten = d := by
  induction n generalizing d with
  | zero => rw [List.length_eq_zero_iff.mp (Nat.le_zero.mp hn), chunksFuel, List.flatten_nil]
  | succ n ih =>
    cases d with
    | nil => rfl
    | cons b d =>
      have hrest : ((b :: d).drop m).length ≤ n := by
        rw [List.length_drop]
        omega
      rw [chunksFuel, List.flatten_cons, ih hrest, List.take_append_drop]

/-- Settles O34: the lengths follow from which places hold a chunk. -/
theorem chunksSplitInOrder : Obligations.ChunksSplitInOrder := by
  refine fun m data hm => ⟨length_chunks hm data, fun i c hc => ?_, flatten_chunksFuel hm (Nat.le_refl _)⟩
  have hlt : i * m < data.length := (lt_length_chunks hm).mp (List.getElem?_eq_some_iff.mp hc).1
  rw [getElem?_chunks hm, if_pos hlt] at hc
  obtain rfl := Option.some.inj hc
  have hlen : ((data.drop (i * m)).take m).length = min m (data.length - i * m) := by rw [List.length_take, List.length_drop]
  have hmore : i + 1 < (chunks m data).length ↔ i * m + m < data.length := by rw [lt_length_chunks hm, Nat.succ_mul]
  exact ⟨rfl, by omega, by omega, by omega, by omega⟩

/-- No chunk is too large for S.LOAD (R170, R171). -/
theorem length_le_of_mem_chunks {m : Nat} (hm : 1 ≤ m) {d c : Bytes} (h : c ∈ chunks m d) : c.length ≤ m := by
  obtain ⟨i, hi⟩ := List.getElem?_of_mem h
  obtain ⟨-, hchunk, -⟩ := chunksSplitInOrder m d hm
  obtain ⟨-, -, hle, -⟩ := hchunk i c hi
  exact hle

end Sys2Proof.Machine
end

section
/-! SEND (R171): from an idle sender every chunk is loaded and waited for, and the invariant holds all along. -/

namespace Sys2Proof.Machine

/-! ## Between two operations of a SEND -/

/-- `t` is reached from `s` by operations of unit SND, with `n` frames confirmed on the way. -/
structure ReachedBySend (s : State) (n : Nat) (t : State) : Prop where
  inv : t.snd.Inv
  cfg : t.snd.cfg = s.snd.cfg
  confirmations : t.snd.confirmations = s.snd.confirmations + n
  rcv : t.rcv = s.rcv

theorem ReachedBySend.refl {s : State} (h : s.snd.Inv) : ReachedBySend s 0 s := ⟨h, rfl, rfl, rfl⟩

/-- The confirmations counted are what the sequence number has advanced by (R25, R164). -/
theorem ReachedBySend.nextSequence {s t : State} {n : Nat} (h : ReachedBySend s n t) (hs : s.snd.Inv) :
    t.snd.nextSequence.toNat = (s.snd.nextSequence.toNat + n) % s.snd.cfg.seqMod.toNat := by
  rw [h.inv.count, h.cfg, h.confirmations, hs.count, Nat.mod_add_mod, Nat.add_assoc]

/-- S.LOAD of a chunk that fits, in IDLE. -/
theorem ReachedBySend.load {s t : State} {n : Nat} {c : Bytes} (h : ReachedBySend s n t) (hi : t.snd.state = .idle)
    (hc : c.length ≤ t.snd.cfg.maxPayload.toNat) : ReachedBySend s n { t with snd := t.snd.loaded c } where
  inv := h.inv.of_move (.load c hi hc)
  cfg := h.cfg
  confirmations := (Snd.confirmations_of_tx (Snd.loaded_out t.snd c)).trans h.confirmations
  rcv := h.rcv

/-- A move out of WAIT counts a confirmation exactly if it ends in IDLE (R161). -/
theorem Snd.Move.confirmations_of_wait {u v : Snd} (hv : u.Move v) (hw : u.state = .wait) :
    (v.state ≠ .idle ∧ v.confirmations = u.confirmations) ∨ (v.state = .idle ∧ v.confirmations = u.confirmations + 1) := by
  cases hv with
  | loadError hs | load c hs hc => exact nomatch hw.symm.trans hs
  | confirm => exact .inr ⟨rfl, Snd.confirmations_of_confirmed rfl⟩
  | retransmit f labels => exact .inl ⟨by simp [hw], Snd.confirmations_of_tx rfl⟩
  | exhaust | raise => exact .inl ⟨nofun, rfl⟩

/-- An answer is enabled in WAIT: datagrams, timeouts, a closed channel and a cancellation alike (R226). -/
theorem Answer.exec_ne_notEnabled {a : Answer} {s : State} (hw : s.snd.state = .wait) : exec a.instr s ≠ .fault .notEnabled := by
  intro h
  cases a with
  | datagram d =>
    rcases Snd.ackArrived_eq_fault.mp (State.onSnd_eq_fault.mp h) with ⟨hn, -⟩ | ⟨-, -, hr⟩
    · exact hn hw
    · exact nomatch (Snd.retry_eq_fault.mp hr).1
  | timeout =>
    rcases Snd.timedOut_eq_fault.mp (State.onSnd_eq_fault.mp h) with ⟨hn, -⟩ | ⟨-, hr⟩
    · exact hn hw
    · exact nomatch (Snd.retry_eq_fault.mp hr).1
  | closed => exact nomatch hw.symm.trans (Snd.closed_eq_fault.mp (State.onSnd_eq_fault.mp h)).1
  | cancel => exact nomatch hw.symm.trans (Snd.cancel_eq_fault.mp (State.onSnd_eq_fault.mp h)).1

/-- Under the invariant every answer has a next state in WAIT: the pending frame holds a value at every byte. -/
theorem Answer.exists_next_of_wait (a : Answer) {s : State} (hs : s.snd.Inv) (hw : s.snd.state = .wait) :
    ∃ t, exec a.instr s = .next t := by
  cases h : exec a.instr s with
  | next t => exact ⟨t, rfl⟩
  | refused r => exact absurd h exec_ne_refused
  | fault f =>
    rcases exec_eq_fault h with rfl | ⟨-, -, hp⟩
    · exact absurd h (Answer.exec_ne_notEnabled hw)
    · exact absurd hp (hs.pending_ne_none hw)

theorem unitOf_answer (a : Answer) : unitOf a.instr = .snd := by cases a <;> rfl

/-- An answer in WAIT: one more chunk is confirmed exactly if it ends in IDLE. -/
theorem ReachedBySend.answer {s t r : State} {n : Nat} {a : Answer} (h : ReachedBySend s n t) (hw : t.snd.state = .wait)
    (hr : exec a.instr t = .next r) :
    (r.snd.state ≠ .idle ∧ ReachedBySend s n r) ∨ (r.snd.state = .idle ∧ ReachedBySend s (n + 1) r) := by
  have hmove := Answer.exec_move hr
  have hinv := h.inv.of_move hmove
  have hcfg := hmove.cfg_eq.trans h.cfg
  have hrcv : r.rcv = s.rcv := (exec_rcv_of_ne hr (by simp [unitOf_answer])).trans h.rcv
  rcases hmove.confirmations_of_wait hw with ⟨hst, hconf⟩ | ⟨hst, hconf⟩
  · exact .inl ⟨hst, hinv, hcfg, hconf.trans h.confirmations, hrcv⟩
  · exact .inr ⟨hst, hinv, hcfg, by rw [hconf, h.confirmations, Nat.add_assoc], hrcv⟩

/-! ## The ends of a SEND -/

/-- The ends a SEND from `s` may have when it has `n` chunks to be confirmed. -/
def SendEnd.endsWell (s : State) (n : Nat) : SendEnd → Prop
  | .ok t _ => t.snd.state = .idle ∧ ReachedBySend s n t
  | .err e t _ => t.snd.state = .failed ∧ t.snd.err = e ∧ t.snd.Inv
  | .waiting _ => True
  | .loadError _ => False
  | .stopped _ => False
  | .refused _ => False

theorem awaitThen_idle {k : State → List Answer → SendEnd} {s : State} (h : s.snd.state = .idle) (as : List Answer) :
    awaitThen k as s = k s as := by
  cases as <;> simp only [awaitThen, h]

theorem awaitThen_failed {k : State → List Answer → SendEnd} {s : State} (h : s.snd.state = .failed) (as : List Answer) :
    awaitThen k as s = .err s.snd.err s as := by
  cases as <;> simp only [awaitThen, h]

theorem awaitThen_wait_nil {k : State → List Answer → SendEnd} {s : State} (h : s.snd.state = .wait) :
    awaitThen k [] s = .waiting s := by
  simp only [awaitThen, h]

theorem awaitThen_wait_cons {k : State → List Answer → SendEnd} {s t : State} {a : Answer} (h : s.snd.state = .wait)
    (ht : exec a.instr s = .next t) (as : List Answer) : awaitThen k (a :: as) s = awaitThen k as t := by
  simp only [awaitThen, h, ht]

/-- A wait ends well if what follows its confirmation does. -/
theorem awaitThen_endsWell {s : State} {n N : Nat} {k : State → List Answer → SendEnd}
    (hk : ∀ t as, t.snd.state = .idle → ReachedBySend s (n + 1) t → (k t as).endsWell s N) {as : List Answer} {t : State}
    (hw : t.snd.state = .wait) (ht : ReachedBySend s n t) : (awaitThen k as t).endsWell s N := by
  induction as generalizing t with
  | nil =>
    rw [awaitThen_wait_nil hw]
    trivial
  | cons a as ih =>
    obtain ⟨r, hr⟩ := a.exists_next_of_wait ht.inv hw
    rw [awaitThen_wait_cons hw hr]
    rcases ht.answer hw hr with ⟨hst, hreach⟩ | ⟨hst, hreach⟩
    · cases hr' : r.snd.state with
      | idle => exact absurd hr' hst
      | wait => exact ih hr' hreach
      | failed =>
        rw [awaitThen_failed hr']
        exact ⟨hr', rfl, hreach.inv⟩
    · rw [awaitThen_idle hst]
      exact hk r as hst hreach

/-- The loop over chunks that fit ends well. -/
theorem sendChunks_endsWell {s : State} {n : Nat} {cs : List Bytes} (hcs : ∀ c ∈ cs, c.length ≤ s.snd.cfg.maxPayload.toNat)
    {t : State} {as : List Answer} (hi : t.snd.state = .idle) (ht : ReachedBySend s n t) :
    (sendChunks cs t as).endsWell s (n + cs.length) := by
  induction cs generalizing n t as with
  | nil => exact ⟨hi, ht⟩
  | cons c cs ih =>
    obtain ⟨hc, hcs⟩ := List.forall_mem_cons.mp hcs
    have hfits : c.length ≤ t.snd.cfg.maxPayload.toNat := ht.cfg ▸ hc
    simp only [sendChunks, exec_sLoad_fits hi hfits, Snd.loaded_state]
    refine awaitThen_endsWell (fun r as hr hreach => ?_) rfl (ht.load hi hfits)
    rw [List.length_cons, Nat.add_comm cs.length, ← Nat.add_assoc]
    exact ih hcs hr hreach

theorem send_endsWell (data : Bytes) {s : State} (as : List Answer) (h : s.snd.Inv) (hi : s.snd.state = .idle) :
    (send data s as).endsWell s (chunks s.snd.cfg.maxPayload.toNat data).length := by
  obtain ⟨hm, -⟩ := Cfg.legal_iff.mp h.cfg
  have := sendChunks_endsWell (as := as) (fun _ => length_le_of_mem_chunks hm (d := data)) hi (.refl h)
  rwa [Nat.zero_add] at this

/-- Settles O35: a SEND ends well, and what the statement says is read off its end. -/
theorem sendReturnsOkOrATerminalError : Obligations.SendReturnsOkOrATerminalError := by
  intro data s as hs hi
  have hend := send_endsWell data as hs hi
  refine ⟨fun t rest h => ?_, fun e t rest h => ?_, fun t h => ?_, fun f h => ?_, fun r h => ?_, rfl⟩
  all_goals rw [h] at hend
  · obtain ⟨hst, hreach⟩ := hend
    exact ⟨hst, hreach.nextSequence hs, hreach.confirmations, hreach.rcv⟩
  · obtain ⟨hst, rfl, hinv⟩ := hend
    exact ⟨hst, rfl, hinv.failed hst⟩
  all_goals exact hend

end Sys2Proof.Machine
end

section
/-! Unit RCV, operation by operation: R.FRAME with its rejections and its acceptance, R.TIMEOUT, R.CLOSED and R.STOP, and the
transitions of R.state (R191 to R200). -/

namespace Sys2Proof.Machine

/-! ## Where the operations are enabled -/

/-- An operation of unit RCV stops exactly outside RUN, as not enabled (R226). -/
theorem exec_rcv_eq_fault {i : Instr} {s : State} {f : Fault} (hi : unitOf i = .rcv) :
    exec i s = .fault f ↔ s.rcv.state ≠ .run ∧ f = .notEnabled := by
  cases i with
  | rFrame d | frame c q p => exact State.onRcv_eq_fault.trans Rcv.frameArrived_eq_fault
  | rTimeout => exact State.onRcv_eq_fault.trans Rcv.timedOut_eq_fault
  | rClosed => exact State.onRcv_eq_fault.trans Rcv.closed_eq_fault
  | rStop => exact State.onRcv_eq_fault.trans Rcv.stop_eq_fault
  | _ => cases hi

/-- In RUN every operation of unit RCV has a step. -/
theorem exec_rcv_exists_next {i : Instr} {s : State} (hi : unitOf i = .rcv) (hr : s.rcv.state = .run) :
    ∃ t, exec i s = .next t := by
  cases h : exec i s with
  | next t => exact ⟨t, rfl⟩
  | fault f => exact absurd hr ((exec_rcv_eq_fault hi).mp h).1
  | refused r => exact absurd h exec_ne_refused

/-! ## R.FRAME -/

/-- The class of a rejection, in the order malformed, checksum, sequence (R192 to R195). -/
theorem Rcv.rejection_eq_some {u : Rcv} {d : Bytes} {e : ErrorCode} : u.rejection d = some e ↔
    (decodeFrame u.cfg.maxPayload.toNat d = .malformed ∧ e = .malformed)
    ∨ (∃ q p, decodeFrame u.cfg.maxPayload.toNat d = .parsed q p false ∧ e = .checksumMismatch)
    ∨ (∃ q p, decodeFrame u.cfg.maxPayload.toNat d = .parsed q p true ∧ q ≠ u.expected ∧ e = .sequenceMismatch) := by
  cases h : decodeFrame u.cfg.maxPayload.toNat d with
  | malformed => simp [Rcv.rejection, h, eq_comm]
  | parsed q p ok => cases ok <;> simp [Rcv.rejection, h, eq_comm]

/-- A recorded class is one of the three. -/
theorem Rcv.class_of_rejection {u : Rcv} {d : Bytes} {e : ErrorCode} (h : u.rejection d = some e) :
    e = .malformed ∨ e = .checksumMismatch ∨ e = .sequenceMismatch := by
  rcases Rcv.rejection_eq_some.mp h with ⟨-, he⟩ | ⟨-, -, -, he⟩ | ⟨-, -, -, -, he⟩
  · exact .inl he
  · exact .inr (.inl he)
  · exact .inr (.inr he)

/-- A datagram that is rejected is not the expected valid frame. -/
theorem Rcv.decodeFrame_ne_expected {u : Rcv} {d : Bytes} {e : ErrorCode} (h : u.rejection d = some e) (p : Bytes) :
    decodeFrame u.cfg.maxPayload.toNat d ≠ .parsed u.expected p true := fun hp =>
  nomatch h.symm.trans (Rcv.rejection_eq_none.mpr ⟨p, hp⟩)

/-- An acceptance, register by register (R196). -/
theorem Rcv.accept_expected_eq (u : Rcv) (p : Bytes) : ({ u with idleCount := 0 } : Rcv).accept u.expected p =
    { u with
      idleCount := 0, lastAcked := u.expected, expected := toByte ((u.expected.toNat + 1) % u.cfg.seqMod.toNat)
      out := u.out ++ [.sink p, .ackTx u.expected] } := by
  simp [Rcv.accept, Rcv.emit, seqNext]

/-- R.FRAME of a datagram that is rejected, in the whole state (R192 to R195). -/
theorem exec_rFrame_of_rejection {s : State} {d : Bytes} {e : ErrorCode} (hr : s.rcv.state = .run)
    (he : s.rcv.rejection d = some e) :
    exec (.rFrame d) s = .next { s with rcv := ({ s.rcv with idleCount := 0 } : Rcv).reject e } :=
  State.onRcv_eq_next.mpr ⟨_, Rcv.frameArrived_eq_next.mpr ⟨hr, .inl ⟨e, he, rfl⟩⟩, rfl⟩

/-- R.FRAME of the expected valid frame, in the whole state (R196). -/
theorem exec_rFrame_of_expected {s : State} {d p : Bytes} (hr : s.rcv.state = .run)
    (hd : decodeFrame s.rcv.cfg.maxPayload.toNat d = .parsed s.rcv.expected p true) :
    exec (.rFrame d) s = .next { s with rcv := ({ s.rcv with idleCount := 0 } : Rcv).accept s.rcv.expected p } :=
  State.onRcv_eq_next.mpr ⟨_, Rcv.frameArrived_eq_next.mpr ⟨hr, .inr ⟨p, hd, rfl⟩⟩, rfl⟩

/-- Settles O36: each of the three classes is a rejection, and REJECT writes what the statement lists. -/
theorem rFrameRejectionsReacknowledge : Obligations.RFrameRejectionsReacknowledge := by
  refine fun s hr => ⟨fun d hd => ?_, fun d p q hd => ?_, fun d p q hd hq => ?_⟩
  · exact exec_rFrame_of_rejection hr (Rcv.rejection_eq_some.mpr (.inl ⟨hd, rfl⟩))
  · exact exec_rFrame_of_rejection hr (Rcv.rejection_eq_some.mpr (.inr (.inl ⟨q, p, hd, rfl⟩)))
  · exact exec_rFrame_of_rejection hr (Rcv.rejection_eq_some.mpr (.inr (.inr ⟨q, p, hd, hq, rfl⟩)))

/-- Settles O37: DEC parses the frame into the expected number and the payload, its checksum right. -/
theorem rFrameAcceptsTheExpectedFrame : Obligations.RFrameAcceptsTheExpectedFrame := by
  intro s c hi lo p hr hp hhi hlo hc
  have hlen : p.length = lengthOf hi lo := by
    rw [lengthOf, hhi, hlo, Nat.div_add_mod]
  have hdec : decodeFrame s.rcv.cfg.maxPayload.toNat (c :: s.rcv.expected :: hi :: lo :: p)
      = .parsed s.rcv.expected p true :=
    decodeFrame_eq_parsed.mpr ⟨c, hi, lo, rfl, hlen ▸ hp, hlen, (beq_iff_eq.mpr hc.symm).symm⟩
  rw [exec_rFrame_of_expected hr hdec, Rcv.accept_expected_eq]

/-- Settles O38: in RUN a datagram is rejected or is the expected valid frame; either way one acknowledgment is last. -/
theorem rFrameAnswersEveryDatagramOnce : Obligations.RFrameAnswersEveryDatagramOnce := by
  refine fun s d => ⟨fun hr => (exec_rcv_eq_fault rfl).mpr ⟨hr, rfl⟩, fun hr => ?_,
    decodeOp_of_build .rFrame .receiver d rfl rfl⟩
  cases h : s.rcv.rejection d with
  | some e =>
    have hno := not_exists.mpr (Rcv.decodeFrame_ne_expected h)
    exact ⟨_, exec_rFrame_of_rejection hr h, hr, rfl, rfl, rfl, rfl, .inl ⟨rfl, rfl, rfl, hno⟩⟩
  | none =>
    obtain ⟨p, hp⟩ := Rcv.rejection_eq_none.mp h
    exact ⟨_, exec_rFrame_of_expected hr hp, hr, rfl, rfl, rfl, rfl, .inr ⟨p, hp, List.append_assoc .., rfl⟩⟩

/-! ## R.TIMEOUT, R.CLOSED and R.STOP -/

/-- Settles O39: no idle limit, a limit not reached, and a limit reached. -/
theorem rTimeoutCountsTowardsTheIdleLimit : Obligations.RTimeoutCountsTowardsTheIdleLimit := by
  refine fun s => ⟨fun hr h0 => ?_, fun hr hpos hne => ?_, fun hr hpos heq => ?_,
    fun hr => (exec_rcv_eq_fault rfl).mpr ⟨hr, rfl⟩, decodeOp_of_build .rTimeout .receiver [] rfl rfl⟩
  · exact State.onRcv_eq_next.mpr ⟨_, Rcv.timedOut_eq_next.mpr ⟨hr, .inl ⟨h0, rfl⟩⟩, rfl⟩
  · exact State.onRcv_eq_next.mpr ⟨_, Rcv.timedOut_eq_next.mpr ⟨hr, .inr (.inr ⟨hpos, hne, rfl⟩)⟩, rfl⟩
  · exact State.onRcv_eq_next.mpr ⟨_, Rcv.timedOut_eq_next.mpr ⟨hr, .inr (.inl ⟨hpos, heq, rfl⟩)⟩, rfl⟩

/-- Settles O40: R.CLOSED raises its code in RUN, R.STOP writes the state alone. -/
theorem rClosedFailsAndRStopEnds : Obligations.RClosedFailsAndRStopEnds := by
  refine fun s => ⟨fun hr => ⟨?_, ?_⟩, fun hr => ⟨?_, ?_⟩, decodeOp_of_build .rClosed .receiver [] rfl rfl,
    decodeOp_of_build .rStop .receiver [] rfl rfl, rfl, rfl, rfl⟩
  · exact State.onRcv_eq_next.mpr ⟨_, Rcv.closed_eq_next.mpr ⟨hr, rfl⟩, rfl⟩
  · exact State.onRcv_eq_next.mpr ⟨_, Rcv.stop_eq_next.mpr ⟨hr, rfl⟩, rfl⟩
  · exact (exec_rcv_eq_fault rfl).mpr ⟨hr, rfl⟩
  · exact (exec_rcv_eq_fault rfl).mpr ⟨hr, rfl⟩

/-! ## The transitions of R.state (R191) -/

/-- `i` brings the datagram `d` to unit RCV: R.FRAME of its bytes, or the frame in its wire format (R237). -/
def bringsDatagram (i : Instr) (d : Bytes) : Prop := i = .rFrame d ∨ ∃ c q b, i = .frame c q b ∧ d = assemble c q b

theorem exec_of_bringsDatagram {i : Instr} {d : Bytes} (hi : bringsDatagram i d) (s : State) :
    exec i s = s.onRcv (s.rcv.frameArrived d) := by
  rcases hi with rfl | ⟨c, q, b, rfl, rfl⟩ <;> rfl

/-- The two transitions a datagram makes, both in RUN. -/
theorem transitions_of_bringsDatagram {i : Instr} {d : Bytes} {s t : State} (hi : bringsDatagram i d) (h : exec i s = .next t) :
    s.rcv.state = .run ∧
      ((∃ d p, bringsDatagram i d ∧ decodeFrame s.rcv.cfg.maxPayload.toNat d = .parsed s.rcv.expected p true
        ∧ t.rcv =
          { s.rcv with
            idleCount := 0, lastAcked := s.rcv.expected
            expected := toByte ((s.rcv.expected.toNat + 1) % s.rcv.cfg.seqMod.toNat)
            out := s.rcv.out ++ [.sink p, .ackTx s.rcv.expected] })
      ∨ (∃ d e, bringsDatagram i d ∧ (∀ p, decodeFrame s.rcv.cfg.maxPayload.toNat d ≠ .parsed s.rcv.expected p true)
        ∧ (e = .malformed ∨ e = .checksumMismatch ∨ e = .sequenceMismatch)
        ∧ t.rcv =
          { s.rcv with
            idleCount := 0, classes := s.rcv.classes ++ [e], out := s.rcv.out ++ [.ackTx s.rcv.lastAcked] })) := by
  obtain ⟨v, hv, rfl⟩ := State.onRcv_eq_next.mp (exec_of_bringsDatagram hi s ▸ h)
  obtain ⟨hr, ⟨e, he, rfl⟩ | ⟨p, hp, rfl⟩⟩ := Rcv.frameArrived_eq_next.mp hv
  · exact ⟨hr, .inr ⟨d, e, hi, Rcv.decodeFrame_ne_expected he, Rcv.class_of_rejection he, rfl⟩⟩
  · exact ⟨hr, .inl ⟨d, p, hi, hp, Rcv.accept_expected_eq s.rcv p⟩⟩

/-- Settles O41: each operation's outcomes, row by row of R191. -/
theorem receiverTransitionTable : Obligations.ReceiverTransitionTable := by
  intro s t i hi h
  cases i with
  | rFrame d =>
    obtain ⟨hr, hrow⟩ := transitions_of_bringsDatagram (.inl rfl) h
    exact ⟨hr, hrow.imp_right .inl⟩
  | frame c q b =>
    obtain ⟨hr, hrow⟩ := transitions_of_bringsDatagram (.inr ⟨c, q, b, rfl, rfl⟩) h
    exact ⟨hr, hrow.imp_right .inl⟩
  | rTimeout =>
    obtain ⟨v, hv, rfl⟩ := State.onRcv_eq_next.mp h
    obtain ⟨hr, ⟨h0, rfl⟩ | ⟨hpos, heq, rfl⟩ | ⟨hpos, hne, rfl⟩⟩ := Rcv.timedOut_eq_next.mp hv
    · exact ⟨hr, .inr (.inr (.inl ⟨rfl, h0, rfl⟩))⟩
    · exact ⟨hr, .inr (.inr (.inr (.inr (.inl ⟨rfl, hpos, heq, by rw [← heq]; rfl⟩))))⟩
    · exact ⟨hr, .inr (.inr (.inr (.inl ⟨rfl, hpos, hne, rfl⟩)))⟩
  | rClosed =>
    obtain ⟨v, hv, rfl⟩ := State.onRcv_eq_next.mp h
    obtain ⟨hr, rfl⟩ := Rcv.closed_eq_next.mp hv
    exact ⟨hr, .inr (.inr (.inr (.inr (.inr (.inl ⟨rfl, rfl⟩)))))⟩
  | rStop =>
    obtain ⟨v, hv, rfl⟩ := State.onRcv_eq_next.mp h
    obtain ⟨hr, rfl⟩ := Rcv.stop_eq_next.mp hv
    exact ⟨hr, .inr (.inr (.inr (.inr (.inr (.inr ⟨rfl, rfl⟩)))))⟩
  | _ => cases hi

end Sys2Proof.Machine
end

section
/-! What operations without a reset between them do to unit RCV, and so exactly-once delivery until the numbers wrap (R197). -/

namespace Sys2Proof.Machine

/-- `v` is unit RCV after some operations from `u`: the invariant holds, and what was delivered stays. -/
structure Rcv.ReachedFrom (u v : Rcv) : Prop where
  inv : v.Inv
  cfg : v.cfg = u.cfg
  delivered : u.delivered <+: v.delivered

theorem Rcv.ReachedFrom.refl {u : Rcv} (h : u.Inv) : u.ReachedFrom u := ⟨h, rfl, List.prefix_rfl⟩

/-- A move only appends to what was delivered (R65). -/
theorem Rcv.Move.delivered_prefix {u v : Rcv} (h : u.Move v) : u.delivered <+: v.delivered := by
  obtain ⟨new, hout, -⟩ := h.out_append
  rw [Rcv.delivered, Rcv.delivered, hout]
  exact (List.prefix_append u.out new).filterMap _

/-- One operation of any unit more. -/
theorem Rcv.ReachedFrom.exec {u : Rcv} {i : Instr} {s t : State} (h : u.ReachedFrom s.rcv) (hx : exec i s = .next t) :
    u.ReachedFrom t.rcv := by
  rcases exec_rcv hx with he | hv
  · exact he ▸ h
  · exact ⟨h.inv.of_move hv, hv.cfg_eq.trans h.cfg, h.delivered.trans hv.delivered_prefix⟩

/-- Any operations of any units more. -/
theorem Rcv.ReachedFrom.execAll {u : Rcv} {is : List Instr} {s t : State} (h : u.ReachedFrom s.rcv)
    (hx : execAll is s = .next t) : u.ReachedFrom t.rcv := by
  induction is generalizing s with
  | nil =>
    cases hx
    exact h
  | cons i is ih =>
    rw [execAll_cons] at hx
    obtain ⟨r, hr, hrest⟩ := andThen_eq_next.mp hx
    exact ih (h.exec hr) hrest

/-- The expected number does not come back before `SEQ_MOD` acceptances (R35, R197). -/
theorem Rcv.ReachedFrom.expected_ne {u v : Rcv} (h : u.ReachedFrom v) (hu : u.Inv)
    (hlt : u.delivered.length < v.delivered.length) (hwrap : v.delivered.length < u.delivered.length + u.cfg.seqMod.toNat) :
    v.expected ≠ u.expected := by
  intro he
  have hcount : (u.cfg.startSeq.toNat + v.delivered.length) % u.cfg.seqMod.toNat
      = (u.cfg.startSeq.toNat + u.delivered.length) % u.cfg.seqMod.toNat := by
    rw [← hu.count, ← he, h.inv.count, h.cfg]
  have hdvd := Nat.sub_mod_eq_zero_of_mod_eq hcount
  rw [Nat.add_sub_add_left, Nat.mod_eq_of_lt (by omega)] at hdvd
  omega

/-- A frame whose number is not the expected one is not delivered (R195). -/
theorem delivered_of_exec_rFrame_of_ne {s t : State} {d p : Bytes} {q : Byte} {ok : Bool}
    (hd : decodeFrame s.rcv.cfg.maxPayload.toNat d = .parsed q p ok) (hq : s.rcv.expected ≠ q)
    (h : exec (.rFrame d) s = .next t) : t.rcv.delivered = s.rcv.delivered := by
  obtain ⟨v, hv, rfl⟩ := State.onRcv_eq_next.mp h
  obtain ⟨-, ⟨e, -, rfl⟩ | ⟨p', hp', -⟩⟩ := Rcv.frameArrived_eq_next.mp hv
  · exact Rcv.delivered_reject _ e
  · exact absurd (DecResult.parsed.inj (hp'.symm.trans hd)).1 hq

/-- The expected valid frame is delivered, after what was delivered before (R196). -/
theorem delivered_of_exec_rFrame_of_expected {s t : State} {d p : Bytes}
    (hd : decodeFrame s.rcv.cfg.maxPayload.toNat d = .parsed s.rcv.expected p true) (h : exec (.rFrame d) s = .next t) :
    t.rcv.delivered = s.rcv.delivered ++ [p] := by
  obtain ⟨v, hv, -⟩ := State.onRcv_eq_next.mp h
  obtain ⟨hr, -⟩ := Rcv.frameArrived_eq_next.mp hv
  obtain rfl := Host.Outcome.next.inj ((exec_rFrame_of_expected hr hd).symm.trans h)
  exact Rcv.delivered_accept _ _ p

/-- Settles O42: the acceptance is one delivery, and until the numbers wrap the expected number is another one. -/
theorem exactlyOnceUntilTheNumbersWrap : Obligations.ExactlyOnceUntilTheNumbersWrap := by
  rintro s t v w is d d' p p' q hs ht hd rfl hv hwrap hd' hw
  have hreach : s.rcv.ReachedFrom t.rcv := (Rcv.ReachedFrom.refl hs).exec ht
  have hfirst : t.rcv.delivered.length = s.rcv.delivered.length + 1 := by
    rw [delivered_of_exec_rFrame_of_expected hd ht, List.length_append, List.length_singleton]
  have hmore : t.rcv.delivered.length ≤ v.rcv.delivered.length :=
    ((Rcv.ReachedFrom.refl hreach.inv).execAll hv).delivered.length_le
  exact delivered_of_exec_rFrame_of_ne hd' ((hreach.execAll hv).expected_ne hs (by omega) (by omega)) hw

end Sys2Proof.Machine
end

section
/-! RUN (R201): every input is taken in RUN, and the loop ends in DONE, in FAILED, or in RUN with its inputs used up. -/

namespace Sys2Proof.Machine

/-! ## One input -/

theorem unitOf_rcvInput (a : RcvInput) : unitOf a.instr = .rcv := by cases a <;> rfl

/-- After R.CLOSED or R.STOP the unit is not in RUN (R199, R200). -/
theorem RcvInput.ne_stop_and_ne_closed {a : RcvInput} {s t : State} (h : exec a.instr s = .next t) (ht : t.rcv.state = .run) :
    a ≠ .stop ∧ a ≠ .closed := by
  constructor
  · rintro rfl
    obtain ⟨v, hv, rfl⟩ := State.onRcv_eq_next.mp h
    obtain ⟨-, rfl⟩ := Rcv.stop_eq_next.mp hv
    cases ht
  · rintro rfl
    obtain ⟨v, hv, rfl⟩ := State.onRcv_eq_next.mp h
    obtain ⟨-, rfl⟩ := Rcv.closed_eq_next.mp hv
    cases ht

/-! ## The loop -/

theorem runReceiver_done {s : State} (h : s.rcv.state = .done) (ins : List RcvInput) : runReceiver ins s = .ok s ins := by
  cases ins <;> simp only [runReceiver, h]

theorem runReceiver_failed {s : State} (h : s.rcv.state = .failed) (ins : List RcvInput) :
    runReceiver ins s = .err s.rcv.err s ins := by
  cases ins <;> simp only [runReceiver, h]

theorem runReceiver_run_nil {s : State} (h : s.rcv.state = .run) : runReceiver [] s = .running s := by
  simp only [runReceiver, h]

theorem runReceiver_run_cons {s t : State} {a : RcvInput} (h : s.rcv.state = .run) (ht : exec a.instr s = .next t)
    (ins : List RcvInput) : runReceiver (a :: ins) s = runReceiver ins t := by
  simp only [runReceiver, h, ht]

/-- A `RUN` whose inputs have run out was in RUN all along. -/
theorem run_of_runReceiver_running {s t : State} {ins : List RcvInput} (h : runReceiver ins s = .running t) :
    s.rcv.state = .run := by
  cases hs : s.rcv.state with
  | run => rfl
  | done => exact nomatch (runReceiver_done hs ins).symm.trans h
  | failed => exact nomatch (runReceiver_failed hs ins).symm.trans h

/-! ## The ends of a RUN -/

/-- `t` is reached from `s` by operations of unit RCV. -/
structure ReachedByRun (s t : State) : Prop where
  rcv : s.rcv.ReachedFrom t.rcv
  snd : t.snd = s.snd

theorem ReachedByRun.sink {s t : State} (h : ReachedByRun s t) : s.rcv.sink <+: t.rcv.sink := h.rcv.delivered.flatten

theorem ReachedByRun.input {s t r : State} {a : RcvInput} (h : ReachedByRun s t) (hr : exec a.instr t = .next r) :
    ReachedByRun s r :=
  ⟨h.rcv.exec hr, (exec_snd_of_ne hr (by simp [unitOf_rcvInput])).trans h.snd⟩

/-- The ends a RUN from `s` may have on the inputs `ins`. -/
def RunEnd.endsWell (s : State) (ins : List RcvInput) : RunEnd → Prop
  | .ok t rest => t.rcv.state = .done ∧ rest <:+ ins ∧ ReachedByRun s t
  | .err e t rest => t.rcv.state = .failed ∧ t.rcv.err = e ∧ rest <:+ ins ∧ ReachedByRun s t
  | .running t => t.rcv.state = .run ∧ RcvInput.stop ∉ ins ∧ RcvInput.closed ∉ ins ∧ ReachedByRun s t
  | .stopped _ => False
  | .refused _ => False

/-- An input before those of a RUN that ends well. -/
theorem RunEnd.endsWell_cons {s : State} {a : RcvInput} {ins : List RcvInput} {e : RunEnd} (h : e.endsWell s ins)
    (ha : ∀ t, e = .running t → a ≠ .stop ∧ a ≠ .closed) : e.endsWell s (a :: ins) := by
  cases e with
  | ok t rest =>
    obtain ⟨hst, hrest, hreach⟩ := h
    exact ⟨hst, hrest.trans (List.suffix_cons a ins), hreach⟩
  | err e t rest =>
    obtain ⟨hst, herr, hrest, hreach⟩ := h
    exact ⟨hst, herr, hrest.trans (List.suffix_cons a ins), hreach⟩
  | running t =>
    obtain ⟨hst, hstop, hclosed, hreach⟩ := h
    obtain ⟨has, hac⟩ := ha t rfl
    exact ⟨hst, List.not_mem_cons_of_ne_of_not_mem has.symm hstop, List.not_mem_cons_of_ne_of_not_mem hac.symm hclosed, hreach⟩
  | stopped f => exact h
  | refused r => exact h

theorem runReceiver_endsWell {s t : State} (ins : List RcvInput) (h : ReachedByRun s t) : (runReceiver ins t).endsWell s ins := by
  cases ht : t.rcv.state with
  | done =>
    rw [runReceiver_done ht]
    exact ⟨ht, List.suffix_rfl, h⟩
  | failed =>
    rw [runReceiver_failed ht]
    exact ⟨ht, rfl, List.suffix_rfl, h⟩
  | run =>
    match ins with
    | [] =>
      rw [runReceiver_run_nil ht]
      exact ⟨ht, List.not_mem_nil, List.not_mem_nil, h⟩
    | a :: ins =>
      obtain ⟨r, hr⟩ := exec_rcv_exists_next (unitOf_rcvInput a) ht
      rw [runReceiver_run_cons ht hr]
      exact RunEnd.endsWell_cons (runReceiver_endsWell ins (h.input hr)) fun w hw =>
        RcvInput.ne_stop_and_ne_closed hr (run_of_runReceiver_running hw)

/-- Settles O43: a RUN ends well, and what the statement says is read off its end and the receiver's invariant. -/
theorem runEndsInDoneOrFailed : Obligations.RunEndsInDoneOrFailed := by
  intro s ins hs _
  have hend := runReceiver_endsWell ins ⟨.refl hs, rfl⟩
  refine ⟨fun t rest h => ?_, fun e t rest h => ?_, fun t h => ?_, fun f h => ?_, fun r h => ?_⟩
  all_goals rw [h] at hend
  · obtain ⟨hst, hrest, hreach⟩ := hend
    exact ⟨hst, hreach.rcv.inv.done hst, hrest, hreach.sink, hreach.snd⟩
  · obtain ⟨hst, rfl, hrest, hreach⟩ := hend
    exact ⟨hst, hreach.rcv.inv.failed hst, hrest, hreach.sink, hreach.snd⟩
  · obtain ⟨hst, hstop, hclosed, hreach⟩ := hend
    exact ⟨hst, hreach.sink, hstop, hclosed⟩
  all_goals exact hend

end Sys2Proof.Machine
end

section
/-! The labels of `classify` drive nothing (R222): every operation, and so every step, ends the same way whatever labels the
units carry. Outcomes are compared with the labels of their next state erased. -/

namespace Sys2Proof.Machine

/-! ## Outcomes with their next state changed -/

/-- The outcome with its next state changed by `f`. -/
def mapNext {σ τ : Type} (f : σ → τ) : Out σ → Out τ
  | .next s => .next (f s)
  | .fault e => .fault e
  | .refused r => .refused r

@[simp] theorem mapNext_next {σ τ : Type} (f : σ → τ) (s : σ) : mapNext f (.next s) = .next (f s) := rfl
@[simp] theorem mapNext_fault {σ τ : Type} (f : σ → τ) (e : Fault) : mapNext f (.fault e) = .fault e := rfl
@[simp] theorem mapNext_refused {σ τ : Type} (f : σ → τ) (r : Refusal) : mapNext f (.refused r) = .refused r := rfl

@[simp] theorem mapNext_require {σ τ : Type} (f : σ → τ) (c : Bool) (o : Out σ) :
    mapNext f (require c o) = require c (mapNext f o) := by
  cases c <;> rfl

/-- Outcomes that agree but for labels are those that agree with the labels erased. -/
theorem sameButLabels_iff {o p : Out State} :
    sameButLabels o p ↔ mapNext State.forgetLabels o = mapNext State.forgetLabels p := by
  cases o <;> cases p <;> simp [sameButLabels]

/-! ## Operations of one unit -/

/-- Unit SND without its labels. -/
def Snd.forgetLabels (u : Snd) : Snd := { u with classes := [] }

/-- Unit RCV without its labels. -/
def Rcv.forgetLabels (u : Rcv) : Rcv := { u with classes := [] }

/-- Whatever labels unit SND carries, the operation ends the same way, labels aside. -/
def Snd.LabelBlind (op : Snd → Out Snd) : Prop :=
  ∀ (u : Snd) (l : List ErrorCode), mapNext Snd.forgetLabels (op { u with classes := l }) = mapNext Snd.forgetLabels (op u)

/-- Whatever labels unit RCV carries, the operation ends the same way, labels aside. -/
def Rcv.LabelBlind (op : Rcv → Out Rcv) : Prop :=
  ∀ (u : Rcv) (l : List ErrorCode), mapNext Rcv.forgetLabels (op { u with classes := l }) = mapNext Rcv.forgetLabels (op u)

theorem Snd.labelBlind_load (c : Bytes) : Snd.LabelBlind (Snd.load c) := fun u l => by
  simp only [Snd.load, mapNext_require]
  cases encodeFrame u.cfg.maxPayload.toNat u.nextSequence c <;> rfl

/-- RETRY reads the counter, its bound and the pending frame only (R165). -/
theorem Snd.labelBlind_retry : Snd.LabelBlind Snd.retry := fun u l => by
  have hp (w : List ErrorCode) : Snd.pending { u with classes := w, retryCount := u.retryCount + 1 } = u.pending := rfl
  cases hx : retryExceeded u.cfg (u.retryCount + 1) with
  | true =>
    simp only [Snd.retry, hx]
    rfl
  | false =>
    simp only [Snd.retry, hx, hp]
    cases u.pending <;> rfl

theorem Snd.labelBlind_ackArrived (d : Bytes) : Snd.LabelBlind (Snd.ackArrived d) := fun u l => by
  simp only [Snd.ackArrived, mapNext_require]
  cases ackMatch d u.nextSequence with
  | true => rfl
  | false => exact congrArg (require _) (Snd.labelBlind_retry u l)

theorem Snd.labelBlind_timedOut : Snd.LabelBlind Snd.timedOut := fun u l => by
  have hl := Snd.labelBlind_retry u (l ++ [.channelTimeout])
  have hu := Snd.labelBlind_retry u (u.classes ++ [.channelTimeout])
  simp only [Snd.timedOut, mapNext_require]
  exact congrArg (require _) (hl.trans hu.symm)

theorem Snd.labelBlind_closed : Snd.LabelBlind Snd.closed := fun u l => by
  simp only [Snd.closed, mapNext_require]
  rfl

theorem Snd.labelBlind_cancel : Snd.LabelBlind Snd.cancel := fun u l => by
  simp only [Snd.cancel, mapNext_require]
  rfl

/-- REJECT leaves a label and ACCEPT none; which of them is done depends on the datagram and the registers (R192). -/
theorem Rcv.labelBlind_frameArrived (d : Bytes) : Rcv.LabelBlind (Rcv.frameArrived d) := fun u l => by
  simp only [Rcv.frameArrived, mapNext_require]
  cases decodeFrame u.cfg.maxPayload.toNat d with
  | malformed => rfl
  | parsed q p ok =>
    cases ok with
    | false => rfl
    | true => cases hq : seqMatch q u.expected <;> (simp only [hq]; rfl)

theorem Rcv.labelBlind_timedOut : Rcv.LabelBlind Rcv.timedOut := fun u l => by
  by_cases h : 0 < u.cfg.idleLimit
  · simp only [Rcv.timedOut, mapNext_require, Rcv.classify_cfg, Rcv.classify_idleCount, h, if_true]
    cases idleReached u.cfg (u.idleCount + 1) <;> rfl
  · simp only [Rcv.timedOut, mapNext_require, Rcv.classify_cfg, h, if_false]
    rfl

theorem Rcv.labelBlind_closed : Rcv.LabelBlind Rcv.closed := fun u l => by
  simp only [Rcv.closed, mapNext_require]
  rfl

theorem Rcv.labelBlind_stop : Rcv.LabelBlind Rcv.stop := fun u l => by
  simp only [Rcv.stop, mapNext_require]
  rfl

/-! ## Operations, requests and steps on the whole state -/

theorem mapNext_onSnd (s : State) (o : Out Snd) :
    mapNext State.forgetLabels (s.onSnd o) = s.forgetLabels.onSnd (mapNext Snd.forgetLabels o) := by
  cases o <;> rfl

theorem mapNext_onRcv (s : State) (o : Out Rcv) :
    mapNext State.forgetLabels (s.onRcv o) = s.forgetLabels.onRcv (mapNext Rcv.forgetLabels o) := by
  cases o <;> rfl

/-- A label-blind operation of unit SND, placed in the state, is blind to the labels of the state. -/
theorem Snd.LabelBlind.onSnd {op : Snd → Out Snd} (h : Snd.LabelBlind op) (s : State) :
    mapNext State.forgetLabels (s.forgetLabels.onSnd (op s.forgetLabels.snd))
      = mapNext State.forgetLabels (s.onSnd (op s.snd)) := by
  rw [mapNext_onSnd, mapNext_onSnd, ← h s.snd []]
  rfl

/-- A label-blind operation of unit RCV, placed in the state, is blind to the labels of the state. -/
theorem Rcv.LabelBlind.onRcv {op : Rcv → Out Rcv} (h : Rcv.LabelBlind op) (s : State) :
    mapNext State.forgetLabels (s.forgetLabels.onRcv (op s.forgetLabels.rcv))
      = mapNext State.forgetLabels (s.onRcv (op s.rcv)) := by
  rw [mapNext_onRcv, mapNext_onRcv, ← h s.rcv []]
  rfl

theorem exec_forgetLabels (i : Instr) (s : State) :
    mapNext State.forgetLabels (exec i s.forgetLabels) = mapNext State.forgetLabels (exec i s) := by
  cases i with
  | ckClr u | ckAdd u b => cases u <;> rfl
  | enc q p => rfl
  | dec d => rfl
  | sLoad c => exact (Snd.labelBlind_load c).onSnd s
  | sAck d => exact (Snd.labelBlind_ackArrived d).onSnd s
  | ack q => exact (Snd.labelBlind_ackArrived [q]).onSnd s
  | sTimeout => exact Snd.labelBlind_timedOut.onSnd s
  | sClosed => exact Snd.labelBlind_closed.onSnd s
  | sCancel => exact Snd.labelBlind_cancel.onSnd s
  | rFrame d => exact (Rcv.labelBlind_frameArrived d).onRcv s
  | frame c q p => exact (Rcv.labelBlind_frameArrived (assemble c q p)).onRcv s
  | rTimeout => exact Rcv.labelBlind_timedOut.onRcv s
  | rClosed => exact Rcv.labelBlind_closed.onRcv s
  | rStop => exact Rcv.labelBlind_stop.onRcv s

theorem resetUnit_forgetLabels (q : ResetReq) (s : State) :
    mapNext State.forgetLabels (resetUnit q s.forgetLabels) = mapNext State.forgetLabels (resetUnit q s) := by
  cases q with
  | snd p | rcv p =>
    simp only [resetUnit]
    cases paramsLegal p <;> rfl
  | ck u => cases u <;> rfl

theorem attempt_forgetLabels (r : Request) (s : State) :
    mapNext State.forgetLabels (attempt r s.forgetLabels) = mapNext State.forgetLabels (attempt r s) := by
  unfold attempt
  cases present r with
  | instr i => exact exec_forgetLabels i s
  | nothing => rfl
  | reset q => exact resetUnit_forgetLabels q s
  | rejected e => rfl

/-- The first outcome, or the second where the first says "not enabled": how the ports pass a request over (R226). -/
def passOver {σ : Type} (o p : Out σ) : Out σ :=
  match o with
  | .next s => .next s
  | .fault f => if f.holds then p else .fault f
  | .refused r => .refused r

theorem mapNext_passOver {σ τ : Type} (f : σ → τ) (o p : Out σ) :
    mapNext f (passOver o p) = passOver (mapNext f o) (mapNext f p) := by
  cases o with
  | next s => rfl
  | fault e => exact apply_ite (mapNext f) _ _ _
  | refused r => rfl

theorem serveFrom_cons (s : State) (held : List Request) (r : Request) (todo : List Request) :
    serveFrom s held (r :: todo)
      = passOver (attempt r (s.presenting (held ++ todo))) (serveFrom s (held ++ [r]) todo) := by
  rw [serveFrom]
  cases attempt r (s.presenting (held ++ todo)) with
  | next t => rfl
  | fault f => cases hf : f.holds <;> simp [passOver, hf]
  | refused e => rfl

theorem serveFrom_forgetLabels (s : State) (held todo : List Request) :
    mapNext State.forgetLabels (serveFrom s.forgetLabels held todo) = mapNext State.forgetLabels (serveFrom s held todo) := by
  induction todo generalizing held with
  | nil =>
    cases held with
    | nil => rfl
    | cons r rs => exact attempt_forgetLabels r (s.presenting rs)
  | cons r todo ih =>
    have ha := attempt_forgetLabels r (s.presenting (held ++ todo))
    rw [serveFrom_cons, serveFrom_cons, mapNext_passOver, mapNext_passOver, ih, ← ha]
    rfl

theorem step_forgetLabels (s : State) :
    mapNext State.forgetLabels (step s.forgetLabels) = mapNext State.forgetLabels (step s) :=
  serveFrom_forgetLabels s [] s.requests

/-- Settles O52: both steps end as the step of their common state without labels does. -/
theorem classifyLabelsCannotBeObserved : Obligations.ClassifyLabelsCannotBeObserved := by
  intro s t h
  rw [sameButLabels_iff, ← step_forgetLabels s, h, step_forgetLabels t]

end Sys2Proof.Machine
end

section
/-! Which operations are not enabled (R226), that their requests stay presented, and that terminal states enable nothing
(R229). -/

namespace Sys2Proof.Machine

/-! ## The list of R226 -/

theorem Snd.retry_ne_notEnabled {u : Snd} : u.retry ≠ .fault .notEnabled := fun h =>
  nomatch (Snd.retry_eq_fault.mp h).1

theorem Snd.ackArrived_eq_notEnabled {d : Bytes} {u : Snd} : u.ackArrived d = .fault .notEnabled ↔ u.state ≠ .wait := by
  simp [Snd.ackArrived_eq_fault, Snd.retry_ne_notEnabled]

theorem Snd.timedOut_eq_notEnabled {u : Snd} : u.timedOut = .fault .notEnabled ↔ u.state ≠ .wait := by
  simp [Snd.timedOut_eq_fault, Snd.retry_ne_notEnabled]

theorem exec_sLoad_eq_notEnabled {c : Bytes} {s : State} :
    exec (.sLoad c) s = .fault .notEnabled ↔ s.snd.state ≠ .idle :=
  (State.onSnd_eq_fault.trans Snd.load_eq_fault).trans (and_iff_left rfl)

theorem exec_sAck_eq_notEnabled {d : Bytes} {s : State} :
    exec (.sAck d) s = .fault .notEnabled ↔ s.snd.state ≠ .wait :=
  State.onSnd_eq_fault.trans Snd.ackArrived_eq_notEnabled

theorem exec_ack_eq_notEnabled {q : Byte} {s : State} : exec (.ack q) s = .fault .notEnabled ↔ s.snd.state ≠ .wait :=
  State.onSnd_eq_fault.trans Snd.ackArrived_eq_notEnabled

theorem exec_sTimeout_eq_notEnabled {s : State} : exec .sTimeout s = .fault .notEnabled ↔ s.snd.state ≠ .wait :=
  State.onSnd_eq_fault.trans Snd.timedOut_eq_notEnabled

theorem exec_sClosed_eq_notEnabled {s : State} : exec .sClosed s = .fault .notEnabled ↔ s.snd.state = .failed :=
  (State.onSnd_eq_fault.trans Snd.closed_eq_fault).trans (and_iff_left rfl)

theorem exec_sCancel_eq_notEnabled {s : State} : exec .sCancel s = .fault .notEnabled ↔ s.snd.state = .failed :=
  (State.onSnd_eq_fault.trans Snd.cancel_eq_fault).trans (and_iff_left rfl)

theorem exec_rcv_eq_notEnabled {i : Instr} {s : State} (hi : unitOf i = .rcv) :
    exec i s = .fault .notEnabled ↔ s.rcv.state ≠ .run :=
  (exec_rcv_eq_fault hi).trans (and_iff_left rfl)

/-- Settles O9: the list instruction by instruction, and the two ways of having no next state. -/
theorem notEnabledIsExactlyTheList : Obligations.NotEnabledIsExactlyTheList := by
  refine ⟨fun i s => ?_, fun i s => ?_⟩
  · cases i with
    | ckClr _ | ckAdd _ _ | enc _ _ | dec _ => simp [exec, execCkClr, execCkAdd, execEnc, execDec]
    | sLoad c => simp [exec_sLoad_eq_notEnabled]
    | sAck d => simp [exec_sAck_eq_notEnabled]
    | ack q => simp [exec_ack_eq_notEnabled]
    | sTimeout => simp [exec_sTimeout_eq_notEnabled]
    | sClosed => simp [exec_sClosed_eq_notEnabled]
    | sCancel => simp [exec_sCancel_eq_notEnabled]
    | rFrame _ | frame _ _ _ | rTimeout | rClosed | rStop => exact (exec_rcv_eq_notEnabled rfl).trans (by simp)
  · cases h : exec i s with
    | next t => exact .inl ⟨t, rfl⟩
    | fault f =>
      rcases exec_eq_fault h with rfl | ⟨rfl, hw, hp⟩
      · exact .inr (.inl rfl)
      · exact .inr (.inr ⟨rfl, hw, hp⟩)
    | refused r => exact absurd h exec_ne_refused

/-! ## Requests that are passed over -/

/-- A request that is not enabled whatever else is presented. -/
def Request.heldIn (s : State) (r : Request) : Prop :=
  ∀ qs, ∃ f, attempt r (s.presenting qs) = .fault f ∧ f.holds = true

/-- The first request that is enabled is served, and what was presented before and behind it stays presented. -/
theorem step_of_held {s t : State} {held rs : List Request} {r : Request} (hreq : s.requests = held ++ r :: rs)
    (hheld : ∀ h ∈ held, h.heldIn s) (ht : attempt r (s.presenting (held ++ rs)) = .next t) :
    step s = .next t ∧ t.requests = held ++ rs := by
  have hpass : serveFrom s [] (held ++ r :: rs) = serveFrom s held (r :: rs) :=
    serveFrom_held fun a h b hab => hheld h (by simp [hab]) _
  refine ⟨?_, attempt_requests ht⟩
  rw [step, serve, hreq, hpass, serveFrom_cons, ht]
  rfl

/-- Settles O8: whether a request is held depends on the two sequencers only, and bytes that are no operation are held in
every state. -/
theorem notEnabledRequestsStayPresented : Obligations.NotEnabledRequestsStayPresented := by
  refine ⟨fun s t held rs r hreq hheld ht => ?_, fun s t u bs e r rs hdec hreq ht => ?_⟩
  · refine step_of_held hreq (fun h hh qs => ?_) ht
    rcases hheld h hh (s.presenting qs) rfl rfl with hf | ⟨e, hf⟩
    · exact ⟨_, hf, rfl⟩
    · exact ⟨_, hf, rfl⟩
  · refine step_of_held (held := [.op u bs]) hreq (fun h hh qs => ?_) ht
    obtain rfl := List.mem_singleton.mp hh
    exact ⟨_, attempt_of_decode_rejected hdec _, rfl⟩

/-! ## Terminal states -/

/-- No operation of unit SND is enabled in FAILED (R229). -/
theorem exec_snd_of_failed {i : Instr} {s : State} (hi : unitOf i = .snd) (hs : s.snd.state = .failed) :
    exec i s = .fault .notEnabled := by
  cases i with
  | sLoad c => exact exec_sLoad_eq_notEnabled.mpr (by simp [hs])
  | sAck d => exact exec_sAck_eq_notEnabled.mpr (by simp [hs])
  | ack q => exact exec_ack_eq_notEnabled.mpr (by simp [hs])
  | sTimeout => exact exec_sTimeout_eq_notEnabled.mpr (by simp [hs])
  | sClosed => exact exec_sClosed_eq_notEnabled.mpr hs
  | sCancel => exact exec_sCancel_eq_notEnabled.mpr hs
  | _ => cases hi

/-- Unit SND makes no move in FAILED. -/
theorem Snd.Move.state_ne_failed {u v : Snd} (h : u.Move v) : u.state ≠ .failed := by
  cases h with
  | raise e hs => exact hs
  | loadError hs | load c hs | confirm hs | retransmit f labels hs | exhaust labels hs => simp [hs]

/-- Unit RCV makes its moves in RUN only. -/
theorem Rcv.Move.state_eq_run {u v : Rcv} (h : u.Move v) : u.state = .run := by
  cases h with
  | reject d e hs | accept d p hs | silence hs | idle hs | idleDone hs | closed hs | stop hs => exact hs

theorem RcvState.ne_run {x : RcvState} (h : x = .done ∨ x = .failed) : x ≠ .run := by
  rcases h with rfl | rfl <;> exact nofun

/-- Settles O49: in a terminal state the unit makes no move, so a step that changes it is its reset. -/
theorem terminalStatesAreSticky : Obligations.TerminalStatesAreSticky := by
  refine ⟨fun s i h => ?_, fun s t h => ⟨fun hs => ?_, fun hr => ?_⟩⟩
  · rcases h with ⟨hi, hs⟩ | ⟨hi, hr⟩
    · exact exec_snd_of_failed hi hs
    · exact (exec_rcv_eq_notEnabled hi).mpr (RcvState.ne_run hr)
  · rcases step_snd h with he | hv | ⟨p, -, hm, hp⟩
    · exact .inl he
    · exact absurd hs hv.state_ne_failed
    · exact .inr ⟨p, hm, hp⟩
  · rcases step_rcv h with he | hv | ⟨p, -, hm, hp⟩
    · exact .inl he
    · exact absurd hv.state_eq_run (RcvState.ne_run hr)
    · exact .inr ⟨p, hm, hp⟩

end Sys2Proof.Machine
end

section
/-! The results of Transport calls as operations (R236 to R238). -/

namespace Sys2Proof.Machine

/-- The first request is served if what it does is an enabled operation. -/
theorem step_of_head_enabled {s : State} {r : Request} {rs : List Request} {i : Instr} (hreq : s.requests = r :: rs)
    (ha : attempt r (s.presenting rs) = exec i (s.presenting rs)) (hen : exec i (s.presenting rs) ≠ .fault .notEnabled) :
    step s = exec i (s.presenting rs) := by
  refine (step_of_head hreq fun f hf => ?_).trans ha
  rcases exec_eq_fault (ha.symm.trans hf) with rfl | ⟨rfl, -⟩
  · exact absurd (ha.symm.trans hf) hen
  · rfl

/-- Settles O10: a datagram does what S.ACK or R.FRAME of its bytes does, and the states asked for enable the operation. -/
theorem transportResultsBecomeOperations : Obligations.TransportResultsBecomeOperations := by
  intro s rs
  have hwait (h : s.snd.state = .wait) : ¬ (s.presenting rs).snd.state ≠ .wait := not_not_intro h
  have hrun (h : s.rcv.state = .run) : ¬ (s.presenting rs).rcv.state ≠ .run := not_not_intro h
  refine ⟨fun d hs hreq => ?_, fun hs hreq => ?_, fun hs hreq => ?_, fun hs hreq => ?_, fun d hr hreq => ?_,
    fun hr hreq => ?_, fun hr hreq => ?_, fun hr hreq => ?_, fun u r hne hreq => ?_⟩
  · exact step_of_head_enabled hreq (exec_decodeAckLink d _) (mt exec_sAck_eq_notEnabled.mp (hwait hs))
  · exact step_of_head_enabled hreq rfl (mt exec_sTimeout_eq_notEnabled.mp (hwait hs))
  · exact step_of_head_enabled hreq rfl (mt exec_sClosed_eq_notEnabled.mp hs)
  · exact step_of_head_enabled hreq rfl (mt exec_sClosed_eq_notEnabled.mp hs)
  · exact step_of_head_enabled hreq (exec_decodeFrameLink d _) (mt (exec_rcv_eq_notEnabled rfl).mp (hrun hr))
  · exact step_of_head_enabled hreq rfl (mt (exec_rcv_eq_notEnabled rfl).mp (hrun hr))
  · exact step_of_head_enabled hreq rfl (mt (exec_rcv_eq_notEnabled rfl).mp (hrun hr))
  · exact step_of_head_enabled hreq rfl (mt (exec_rcv_eq_notEnabled rfl).mp (hrun hr))
  · have ha : attempt (.sent u r) (s.presenting rs) = .next (s.presenting rs) := by
      cases r with
      | ok | timeout => rfl
      | closed => exact absurd rfl hne
    exact (step_of_head hreq fun f hf => nomatch ha.symm.trans hf).trans ha

end Sys2Proof.Machine
end

section
/-! The reset of a unit: what it leaves in its registers (R45, R260), and which parameters it refuses (R261). -/

namespace Sys2Proof.Machine

/-- A reset presented first is the next step: it is never held. -/
theorem step_of_reset {s : State} {q : ResetReq} {rs : List Request} (h : s.requests = .reset q :: rs) :
    step s = resetUnit q (s.presenting rs) := by
  refine step_of_head h fun f hf => ?_
  change resetUnit q (s.presenting rs) = .fault f at hf
  cases q with
  | snd p | rcv p => cases hp : paramsLegal p <;> simp [resetUnit, hp] at hf
  | ck u => cases hf

/-- The reset of a sequencer is refused exactly for parameters that are not legal (R261, U5). -/
theorem resetUnit_eq_refused {q : ResetReq} {p : Params} (hq : q = .snd p ∨ q = .rcv p) (s : State) :
    resetUnit q s = .refused .illegalConfiguration ↔ ¬ paramsLegal p = true := by
  rcases hq with rfl | rfl <;> cases hp : paramsLegal p <;> simp [resetUnit, hp]

/-- The last acknowledgment at reset is one behind START_SEQ (R33, R45). -/
theorem Rcv.toNat_lastAcked_reset {p : Params} (hp : paramsLegal p = true) :
    (Rcv.reset p).lastAcked.toNat = (p.startSeq + p.seqMod - 1) % p.seqMod := by
  obtain ⟨-, hmod, -⟩ := Cfg.toNat_load hp
  have := Cfg.toNat_ofNat_mod (Cfg.legal_load hp) (p.startSeq + p.seqMod - 1)
  rwa [hmod] at this

/-- Settles O11: each reset is the next step and leaves the reset value of its unit, whose configuration fits its registers. -/
theorem resetSetsTheUnitsRegisters : Obligations.ResetSetsTheUnitsRegisters := by
  refine ⟨fun s p rs h1 h2 h3 h4 h5 h => ?_, fun s p rs h1 h2 h3 h4 h5 h => ?_, fun s rs h => step_of_reset h,
    fun s rs h => step_of_reset h⟩
  all_goals
    have hp : paramsLegal p = true := paramsLegal_iff.mpr ⟨h1, h2, h3, h4, h5⟩
    obtain ⟨hmax, hmod, hstart⟩ := Cfg.toNat_load hp
  · refine ⟨Snd.reset p, ?_, hmax, hmod, hstart, rfl, rfl, rfl, rfl, hstart, rfl, rfl, rfl, fun _ => rfl, List.nil_prefix⟩
    rw [step_of_reset h, resetUnit_eq_next.mpr (.inl ⟨p, rfl, hp, rfl⟩)]
    rfl
  · refine ⟨Rcv.reset p, ?_, hmax, hmod, hstart, rfl, rfl, rfl, rfl, hstart, Rcv.toNat_lastAcked_reset hp, rfl,
      List.nil_prefix⟩
    rw [step_of_reset h, resetUnit_eq_next.mpr (.inr (.inl ⟨p, rfl, hp, rfl⟩))]
    rfl

/-- Settles O12: the step is the reset, and the legal parameters are those within the ranges. -/
theorem illegalConfigurationIsRefused : Obligations.IllegalConfigurationIsRefused := by
  intro s p rs h
  rw [← paramsLegal_iff]
  rcases h with h | h
  · rw [step_of_reset h, resetUnit_eq_refused (.inl rfl)]
  · rw [step_of_reset h, resetUnit_eq_refused (.inr rfl)]

end Sys2Proof.Machine
end

section
/-! The numbers of a legal configuration, counted from START_SEQ, and so the answer to a rejected first frame (R33, R276). -/

namespace Sys2Proof.Machine

/-- The number reached from START_SEQ after `n` increments (R25, R169). -/
def Cfg.numberAt (c : Cfg) (n : Nat) : Byte := toByte ((c.startSeq.toNat + n) % c.seqMod.toNat)

theorem Cfg.toNat_numberAt {c : Cfg} (h : c.legal = true) (n : Nat) :
    (c.numberAt n).toNat = (c.startSeq.toNat + n) % c.seqMod.toNat :=
  Cfg.toNat_ofNat_mod h _

theorem Cfg.numberAt_congr {c c' : Cfg} (hmod : c.seqMod = c'.seqMod) (hstart : c.startSeq = c'.startSeq) (n : Nat) :
    c.numberAt n = c'.numberAt n := by
  rw [Cfg.numberAt, hmod, hstart, Cfg.numberAt]

/-- The numbers come back after SEQ_MOD increments. -/
theorem Cfg.numberAt_add_seqMod (c : Cfg) (n : Nat) : c.numberAt (n + c.seqMod.toNat) = c.numberAt n := by
  rw [Cfg.numberAt, ← Nat.add_assoc, Nat.add_mod_right, Cfg.numberAt]

/-- A number and its successor differ, SEQ_MOD being at least 2. -/
theorem Cfg.eq_of_numberAt_eq {c : Cfg} (h : c.legal = true) {a b : Nat} (hab : a ≤ b) (hba : b ≤ a + 1)
    (heq : c.numberAt a = c.numberAt b) : a = b := by
  obtain ⟨-, h2, -, -⟩ := Cfg.legal_iff.mp h
  have hmod : (c.startSeq.toNat + b) % c.seqMod.toNat = (c.startSeq.toNat + a) % c.seqMod.toNat := by
    rw [← Cfg.toNat_numberAt h, ← Cfg.toNat_numberAt h, heq]
  have hdvd := Nat.sub_mod_eq_zero_of_mod_eq hmod
  rw [Nat.add_sub_add_left, Nat.mod_eq_of_lt (by omega)] at hdvd
  omega

/-- S.next_sequence is the number of the frames confirmed (R25). -/
theorem Snd.Inv.nextSequence_eq {u : Snd} (h : u.Inv) : u.nextSequence = u.cfg.numberAt u.confirmations :=
  BitVec.eq_of_toNat_eq (h.count.trans (Cfg.toNat_numberAt h.cfg _).symm)

/-- R.expected_sequence is the number of the payloads delivered (R32). -/
theorem Rcv.Inv.expected_eq {v : Rcv} (h : v.Inv) : v.expected = v.cfg.numberAt v.delivered.length :=
  BitVec.eq_of_toNat_eq (h.count.trans (Cfg.toNat_numberAt h.cfg _).symm)

/-- The number of the last acknowledgment after `n` deliveries, one behind the number expected (R33). -/
def Cfg.ackAt (c : Cfg) (n : Nat) : Byte := c.numberAt (n + c.seqMod.toNat - 1)

theorem Rcv.Inv.lastAcked_eq {v : Rcv} (h : v.Inv) : v.lastAcked = v.cfg.ackAt v.delivered.length := by
  obtain ⟨-, h2, -, -⟩ := Cfg.legal_iff.mp h.cfg
  refine BitVec.eq_of_toNat_eq ?_
  rw [h.lastAcked, h.count, Cfg.ackAt, Cfg.toNat_numberAt h.cfg, Nat.add_sub_assoc (by omega), Nat.mod_add_mod,
    Nat.add_sub_assoc (by omega), Nat.add_assoc]

/-- An acknowledgment that is current or one behind is number `i` exactly if it was sent after `i + 1` deliveries (R163). -/
theorem Cfg.ackAt_eq_numberAt {c : Cfg} (h : c.legal = true) {d i : Nat} (hi : i ≤ d) (hd : d ≤ i + 1) :
    c.ackAt d = c.numberAt i ↔ d = i + 1 := by
  obtain ⟨-, h2, -, -⟩ := Cfg.legal_iff.mp h
  rw [← Cfg.numberAt_add_seqMod c i, Cfg.ackAt]
  constructor
  · intro heq
    have := Cfg.eq_of_numberAt_eq h (by omega) (by omega) heq
    omega
  · rintro rfl
    rw [show i + 1 + c.seqMod.toNat - 1 = i + c.seqMod.toNat by omega]

/-- A datagram is rejected, with the last acknowledgment again, or is the expected valid frame, which is acknowledged (R192). -/
theorem rcv_of_bringsDatagram {i : Instr} {d : Bytes} {s t : State} (hi : bringsDatagram i d) (h : exec i s = .next t) :
    s.rcv.state = .run ∧
      ((∃ e, t = { s with rcv := ({ s.rcv with idleCount := 0 } : Rcv).reject e })
      ∨ (∃ p, decodeFrame s.rcv.cfg.maxPayload.toNat d = .parsed s.rcv.expected p true
        ∧ t = { s with rcv := ({ s.rcv with idleCount := 0 } : Rcv).accept s.rcv.expected p })) := by
  obtain ⟨v, hv, rfl⟩ := State.onRcv_eq_next.mp (exec_of_bringsDatagram hi s ▸ h)
  obtain ⟨hr, ⟨e, -, rfl⟩ | ⟨p, hp, rfl⟩⟩ := Rcv.frameArrived_eq_next.mp hv
  · exact ⟨hr, .inl ⟨e, rfl⟩⟩
  · exact ⟨hr, .inr ⟨p, hp, rfl⟩⟩

/-- A RETRY confirms nothing, keeps the number and does not return to IDLE (R165). -/
theorem Snd.retry_keeps {u v : Snd} {labels : List ErrorCode} (hw : u.state = .wait)
    (h : Snd.retry { u with classes := labels } = .next v) :
    v.confirmations = u.confirmations ∧ v.nextSequence = u.nextSequence ∧ v.state ≠ .idle := by
  rcases Snd.retry_eq_next.mp h with ⟨-, rfl⟩ | ⟨-, f, -, rfl⟩
  · exact ⟨rfl, rfl, nofun⟩
  · exact ⟨Snd.confirmations_of_tx (u := u) rfl, rfl, by simp [hw]⟩

/-- Settles O53: what is not delivered is rejected, and the acknowledgment re-sent is one behind the first number. -/
theorem rejectedFirstFrameIsNotConfirmed : Obligations.RejectedFirstFrameIsNotConfirmed := by
  intro s t i hs hmod hstart hconf hdel hi hx ht
  obtain ⟨d, hd⟩ : ∃ d, bringsDatagram i d := by
    rcases hi with ⟨d, rfl⟩ | ⟨c, q, p, rfl⟩
    · exact ⟨d, .inl rfl⟩
    · exact ⟨_, .inr ⟨c, q, p, rfl, rfl⟩⟩
  obtain ⟨-, ⟨e, rfl⟩ | ⟨p, -, rfl⟩⟩ := rcv_of_bringsDatagram hd hx
  · have hne : s.rcv.lastAcked ≠ s.snd.nextSequence := by
      rw [hs.rcv.lastAcked_eq, hs.snd.nextSequence_eq, hdel, hconf, Cfg.numberAt_congr hmod hstart, List.length_nil, Ne,
        Cfg.ackAt_eq_numberAt hs.rcv.cfg (Nat.le_refl 0) (Nat.zero_le 1)]
      exact nofun
    refine ⟨s.rcv.lastAcked, rfl, hne, fun v hv => ?_⟩
    obtain ⟨hw, labels, hr⟩ := retry_of_exec (.inr ⟨_, by simpa using hne, rfl⟩) hv
    obtain ⟨hc, hq, hst⟩ := Snd.retry_keeps hw hr
    exact ⟨hc.trans hconf, hq, hst⟩
  · rw [Rcv.delivered_accept] at ht
    simp at ht

end Sys2Proof.Machine
end

section
/-! Two ends with different START_SEQ (R271): the first frame is rejected however often it arrives, and the acknowledgment that
answers it decides how the transfer ends. -/

namespace Sys2Proof.Machine

/-! ## The first frame -/

/-- The state after S.LOAD of a chunk that fits (R162). -/
def State.loaded (s : State) (c : Bytes) : State := { s with snd := s.snd.loaded c }

/-- The first frame, if the first S.LOAD transmitted one, is the one made of the chunk (R162). -/
theorem loaded_of_frames_eq {s t : State} {c f : Bytes} (h : exec (.sLoad c) s = .next t) (hs : s.snd.frames = [])
    (hf : t.snd.frames = [f]) : t = s.loaded c ∧ f = s.snd.loadFrame c := by
  obtain ⟨v, hv, rfl⟩ := State.onSnd_eq_next.mp h
  obtain ⟨-, ⟨-, rfl⟩ | ⟨-, rfl⟩⟩ := Snd.load_eq_next.mp hv
  · have hnone : (s.snd.emit (.loadError .payloadTooLarge)).frames = s.snd.frames := by simp [Snd.frames]
    simp [hnone, hs] at hf
  · have hframes := Snd.frames_of_tx (Snd.loaded_out s.snd c)
    rw [hs, List.nil_append] at hframes
    exact ⟨rfl, List.singleton_inj.mp (hf.symm.trans hframes)⟩

/-- The numbers two ends start with differ if their START_SEQ do. -/
theorem nextSequence_ne_expected_of_reset {p q : Params} (hp : paramsLegal p = true) (hq : paramsLegal q = true)
    (hne : p.startSeq ≠ q.startSeq) : (Snd.reset p).nextSequence ≠ (Rcv.reset q).expected := by
  intro heq
  obtain ⟨-, -, hps⟩ := Cfg.toNat_load hp
  obtain ⟨-, -, hqs⟩ := Cfg.toNat_load hq
  exact hne (hps.symm.trans ((congrArg BitVec.toNat heq).trans hqs))

/-- A frame with another number than the expected one is rejected, whatever else is right about it (R193 to R195). -/
theorem Rcv.exists_rejection_of_ne {v : Rcv} {q : Byte} (c : Byte) (p : Bytes) (h : q ≠ v.expected) :
    ∃ e, v.rejection (assemble c q p) = some e := by
  refine Option.ne_none_iff_exists'.mp fun hnone => ?_
  obtain ⟨p', hp'⟩ := Rcv.rejection_eq_none.mp hnone
  obtain ⟨c', hi, lo, hd, -⟩ := decodeFrame_eq_parsed.mp hp'
  exact h (List.cons.inj (List.cons.inj hd).2).1

/-- Copies of a rejected frame are rejected one after the other, each with the last acknowledgment again. -/
theorem execAll_rFrame_of_rejection {d : Bytes} {e : ErrorCode} (n : Nat) {s : State} (hr : s.rcv.state = .run)
    (he : s.rcv.rejection d = some e) :
    ∃ v, execAll (List.replicate n (.rFrame d)) s = .next v ∧ v.rcv.delivered = s.rcv.delivered
      ∧ v.rcv.lastAcked = s.rcv.lastAcked ∧ v.rcv.acks = s.rcv.acks ++ List.replicate n s.rcv.lastAcked := by
  induction n generalizing s with
  | zero => exact ⟨s, rfl, rfl, rfl, (List.append_nil _).symm⟩
  | succ n ih =>
    obtain ⟨v, hv, hdel, hlast, hacks⟩ := ih (s := { s with rcv := ({ s.rcv with idleCount := 0 } : Rcv).reject e }) hr he
    rw [List.replicate_succ, execAll_cons, exec_rFrame_of_rejection hr he, andThen_next]
    refine ⟨v, hv, hdel.trans (Rcv.delivered_reject _ e), hlast, ?_⟩
    rw [hacks, Rcv.acks_reject, List.append_assoc, List.replicate_succ]
    rfl

/-- Settles O54: the receiver expects another number than the frame's, and a rejection does not change that. -/
theorem disagreeingStartIsNeverAccepted : Obligations.DisagreeingStartIsNeverAccepted := by
  rintro p q s t v c f n hp hq hne rfl hload hf hv
  obtain ⟨rfl, rfl⟩ := loaded_of_frames_eq hload rfl hf
  obtain ⟨e, he⟩ := Rcv.exists_rejection_of_ne (toByte (csum255 c)) c (nextSequence_ne_expected_of_reset hp hq hne)
  obtain ⟨w, hw, hdel, hlast, hacks⟩ := execAll_rFrame_of_rejection n (s := (State.resetWith p q).loaded c) rfl he
  obtain rfl := Host.Outcome.next.inj (hw.symm.trans hv)
  exact ⟨hdel, hacks.trans (by rw [hlast]; rfl)⟩

/-! ## One transmission that is rejected -/

/-- The state after the pending frame was rejected and the acknowledgment re-sent has left unit SND as `v`. -/
def State.reacknowledged (s : State) (e : ErrorCode) (v : Snd) : State :=
  { s with snd := v, rcv := ({ s.rcv with idleCount := 0 } : Rcv).reject e }

/-- The sender waits for a frame that the receiver rejects, `f` being what it transmitted last and will transmit again. -/
structure State.Rejecting (s : State) (f : Bytes) (e : ErrorCode) : Prop where
  wait : s.snd.state = .wait
  run : s.rcv.state = .run
  pending : s.snd.pending = some f
  last : s.snd.frames.getLastD [] = f
  rejected : s.rcv.rejection f = some e

/-- One transmission, its rejection and the acknowledgment that answers it: as operations, and over the fault-free channel. -/
theorem State.Rejecting.round {s : State} {f : Bytes} {e : ErrorCode} {v : Snd} (h : s.Rejecting f e)
    (hv : s.snd.ackArrived [s.rcv.lastAcked] = .next v) :
    (∀ is, execAll (.rFrame f :: .sAck [s.rcv.lastAcked] :: is) s = execAll is (s.reacknowledged e v))
    ∧ ∀ n, exchange (n + 1) [] s = exchange n [] (s.reacknowledged e v) := by
  have hframe := exec_rFrame_of_rejection h.run h.rejected
  have hack : exec (.sAck [s.rcv.lastAcked]) { s with rcv := ({ s.rcv with idleCount := 0 } : Rcv).reject e }
      = .next (s.reacknowledged e v) := State.onSnd_eq_next.mpr ⟨v, hv, rfl⟩
  constructor
  · intro is
    rw [execAll_cons, hframe, andThen_next, execAll_cons, hack, andThen_next]
  · intro n
    exact exchange_round h.wait (h.last.symm ▸ hframe) (silent_zero _)
      (by rw [Rcv.acks_reject, List.getLast?_concat]) hack

/-- The end of a transfer every transmission of which was rejected and answered by an acknowledgment that does not match:
`n` more answers, and the last of them fatal (R165). -/
structure State.FailedAfter (s : State) (f : Bytes) (n : Nat) (v : State) : Prop where
  state : v.snd.state = .failed
  err : v.snd.err = .deliveryFailed
  confirmations : v.snd.confirmations = s.snd.confirmations
  delivered : v.rcv.delivered = s.rcv.delivered
  acks : v.rcv.acks = s.rcv.acks ++ List.replicate n s.rcv.lastAcked
  frames : v.snd.frames = s.snd.frames ++ List.replicate (n - 1) f

/-- The unit after RETRY within the bound has sent the pending frame `f` again (R165). -/
def Snd.retransmitted (u : Snd) (f : Bytes) : Snd := { u with retryCount := u.retryCount + 1, out := u.out ++ [.tx f] }

@[simp] theorem Snd.retransmitted_frames (u : Snd) (f : Bytes) : (u.retransmitted f).frames = u.frames ++ [f] :=
  Snd.frames_of_tx rfl

@[simp] theorem Snd.retransmitted_confirmations (u : Snd) (f : Bytes) : (u.retransmitted f).confirmations = u.confirmations :=
  Snd.confirmations_of_tx rfl

/-- An acknowledgment that does not match is answered by RETRY. -/
theorem Snd.ackArrived_of_ne {u v : Snd} {b : Byte} (hw : u.state = .wait) (hb : b ≠ u.nextSequence) (h : u.retry = .next v) :
    u.ackArrived [b] = .next v :=
  Snd.ackArrived_eq_next.mpr ⟨hw, .inr ⟨by simpa using hb, h⟩⟩

/-- When the acknowledgment re-sent is not the sender's number, each answer counts a retry and the last one is fatal. -/
theorem State.Rejecting.fails {f : Bytes} {e : ErrorCode} {n : Nat} {s : State} (h : s.Rejecting f e)
    (hne : s.rcv.lastAcked ≠ s.snd.nextSequence) (hn : s.snd.retryCount + n = s.snd.cfg.maxRetry) :
    ∃ v, execAll (List.replicate (n + 1) [Instr.rFrame f, .sAck [s.rcv.lastAcked]]).flatten s = .next v
      ∧ exchange (n + 1) [] s = .next v ∧ s.FailedAfter f (n + 1) v := by
  rw [List.replicate_succ, List.flatten_cons]
  induction n generalizing s with
  | zero =>
    obtain ⟨hall, hex⟩ := h.round (Snd.ackArrived_of_ne h.wait hne (Snd.retry_eq_next.mpr (.inl ⟨by omega, rfl⟩)))
    exact ⟨_, hall _, hex 0, rfl, rfl, rfl, Rcv.delivered_reject _ e, Rcv.acks_reject _ e, (List.append_nil _).symm⟩
  | succ n ih =>
    have hretry : s.snd.retry = .next (s.snd.retransmitted f) :=
      Snd.retry_eq_next.mpr (.inr ⟨by omega, f, h.pending, rfl⟩)
    obtain ⟨hall, hex⟩ := h.round (Snd.ackArrived_of_ne h.wait hne hretry)
    obtain ⟨v, hv, hx, hfail⟩ := ih (s := s.reacknowledged e (s.snd.retransmitted f))
      ⟨h.wait, h.run, h.pending, by simp [State.reacknowledged], h.rejected⟩ hne
      (by simp only [State.reacknowledged, Snd.retransmitted]; omega)
    refine ⟨v, (hall _).trans hv, (hex _).trans hx, hfail.state, hfail.err, ?_, ?_, ?_, ?_⟩
    · exact hfail.confirmations.trans (Snd.retransmitted_confirmations _ f)
    · exact hfail.delivered.trans (Rcv.delivered_reject _ e)
    · rw [hfail.acks, State.reacknowledged, Rcv.acks_reject, List.append_assoc, List.replicate_succ (n := n + 1)]
      rfl
    · rw [hfail.frames, State.reacknowledged, Snd.retransmitted_frames, List.append_assoc]
      rfl

/-- Settles O55: the acknowledgment re-sent does not match, and every answer counts a retry, or it matches by the receiver's
START_SEQ being one ahead. -/
theorem disagreeingStartEndsByTheReacknowledgment : Obligations.DisagreeingStartEndsByTheReacknowledgment := by
  rintro p q s t c f hp hq hne rfl hload hf
  have hdeliver : deliverChunk .none c (State.resetWith p q) = exchange (p.maxRetry + 1) [] t :=
    deliverChunk_of_load (silent_zero _) hload
  obtain ⟨rfl, rfl⟩ := loaded_of_frames_eq hload rfl hf
  obtain ⟨e, he⟩ := Rcv.exists_rejection_of_ne (toByte (csum255 c)) c (nextSequence_ne_expected_of_reset hp hq hne)
  have hrej : ((State.resetWith p q).loaded c).Rejecting ((State.resetWith p q).snd.loadFrame c) e :=
    ⟨rfl, rfl, Snd.loaded_pending _ c, by rw [hf]; rfl, he⟩
  have hmatch : (Rcv.reset q).lastAcked = (Snd.reset p).nextSequence
      ↔ (q.startSeq + q.seqMod - 1) % q.seqMod = p.startSeq := by
    obtain ⟨-, -, hstart⟩ := Cfg.toNat_load hp
    rw [← BitVec.toNat_inj, Rcv.toNat_lastAcked_reset hq, show (Snd.reset p).nextSequence.toNat = p.startSeq from hstart]
  refine ⟨fun hlast => ?_, fun hlast => ?_⟩
  · obtain ⟨v, hv, hx, hfail⟩ := hrej.fails (mt hmatch.mp hlast) (Nat.zero_add p.maxRetry)
    refine ⟨v, hv, hfail.state, hfail.err, hfail.confirmations, hfail.delivered, hfail.acks, ?_, hdeliver.trans hx⟩
    rw [hfail.frames, hf]
    rfl
  · have hack := congrArg (fun b => [b]) (hmatch.mpr hlast)
    obtain ⟨hall, hex⟩ := hrej.round (Snd.ackArrived_eq_next.mpr ⟨rfl, .inl ⟨hack, rfl⟩⟩)
    refine ⟨_, hall [], rfl, rfl, Rcv.delivered_reject _ e, Rcv.acks_reject _ e, ?_⟩
    exact (hdeliver.trans (hex p.maxRetry)).trans (exchange_of_ne_wait _ _ nofun)

end Sys2Proof.Machine
end

section
/-! The fault-free channel (R68): a silence that reaches the idle limit (R272, R283(b)), and transfers in which none does
(R277). -/

namespace Sys2Proof.Machine

/-! ## A silence that reaches the idle limit -/

/-- An S.TIMEOUT confirms nothing and leaves the receiver as it is (R166, R21). -/
theorem keeps_of_exec_sTimeout {s t : State} (h : exec .sTimeout s = .next t) :
    t.snd.confirmations = s.snd.confirmations ∧ t.rcv = s.rcv := by
  obtain ⟨hw, labels, hr⟩ := retry_of_exec (.inl rfl) h
  exact ⟨(Snd.retry_keeps hw hr).1, exec_rcv_of_ne h nofun⟩

theorem keeps_of_execAll_sTimeout {n : Nat} {s t : State} (h : execAll (List.replicate n .sTimeout) s = .next t) :
    t.snd.confirmations = s.snd.confirmations ∧ t.rcv = s.rcv := by
  induction n generalizing s with
  | zero =>
    cases h
    exact ⟨rfl, rfl⟩
  | succ n ih =>
    rw [List.replicate_succ, execAll_cons] at h
    obtain ⟨r, hr, hrest⟩ := andThen_eq_next.mp h
    obtain ⟨hconf, hrcv⟩ := keeps_of_exec_sTimeout hr
    obtain ⟨hconf', hrcv'⟩ := ih hrest
    exact ⟨hconf'.trans hconf, hrcv'.trans hrcv⟩

/-- A frame that is transmitted to a receiver no longer in RUN has no step, and so the exchange has none. -/
theorem exchange_of_ne_run {s : State} (n : Nat) (ws : List Nat) (hw : s.snd.state = .wait) (hr : s.rcv.state ≠ .run) :
    exchange (n + 1) ws s = .fault .notEnabled := by
  have hf : exec (.rFrame (s.snd.frames.getLastD [])) s = .fault .notEnabled := (exec_rcv_eq_fault rfl).mpr ⟨hr, rfl⟩
  simp only [exchange, hw, hf, andThen_fault]

/-- A sender that sees timeouts only ends with DeliveryFailed, and nothing else changes (R172). -/
theorem execAll_sTimeout_fails {s : State} {f : Bytes} (hw : s.snd.state = .wait) (h0 : s.snd.retryCount = 0)
    (hf : s.snd.pending = some f) :
    ∃ v, execAll (List.replicate (s.snd.cfg.maxRetry + 1) .sTimeout) s = .next v ∧ v.snd.state = .failed
      ∧ v.snd.err = .deliveryFailed ∧ v.snd.confirmations = s.snd.confirmations ∧ v.rcv = s.rcv := by
  obtain ⟨v, hv, hst, herr, -⟩ := execAll_wrong (as := List.replicate (s.snd.cfg.maxRetry + 1) .timeout) hw (by omega) hf
    (fun a ha => by rw [List.eq_of_mem_replicate ha]; rfl) (by rw [List.length_replicate, h0, Nat.sub_zero])
  rw [List.map_replicate] at hv
  exact ⟨v, hv, hst, herr, keeps_of_execAll_sTimeout hv⟩

/-- The receiver after R.TIMEOUTs that reach the idle limit (R198). -/
def State.idledOut (s : State) (labels : List ErrorCode) : State :=
  { s with rcv := { s.rcv with classes := labels, idleCount := s.rcv.cfg.idleLimit, state := .done } }

/-- Settles O57: the silence ends the run, S.LOAD is still enabled, and its frame is not taken. -/
theorem silenceEndsTheReceiverInMidStream : Obligations.SilenceEndsTheReceiverInMidStream := by
  intro s c ws hs hi hr hpos hc
  obtain ⟨herr, hidle⟩ := hs.rcv.run hr
  obtain ⟨n, hn⟩ := Nat.exists_eq_succ_of_ne_zero (by omega : s.rcv.cfg.idleLimit - s.rcv.idleCount ≠ 0)
  obtain ⟨labels, ht⟩ := silent_of_reaches n hr (by omega)
  have hload : exec (.sLoad c) (s.idledOut labels) = .next ((s.idledOut labels).loaded c) := exec_sLoad_fits hi hc
  rw [hn]
  refine ⟨s.idledOut labels, ht, rfl, herr, rfl, rfl, ?_, ?_⟩
  · rw [deliverChunk_of_load ht hload]
    exact exchange_of_ne_run _ ws rfl nofun
  · rw [execAll_cons, hload, andThen_next]
    obtain ⟨v, hv, hst, herr, hconf, hrcv⟩ := execAll_sTimeout_fails (s := (s.idledOut labels).loaded c) rfl rfl
      (Snd.loaded_pending s.snd c)
    exact ⟨v, hv, hst, herr, hconf.trans (Snd.confirmations_of_tx (Snd.loaded_out s.snd c)), hrcv⟩

/-! ## A chunk between ends that agree -/

/-- The receiver after R.TIMEOUTs that do not reach the idle limit: labels and a count (R198). -/
def State.silenced (s : State) (labels : List ErrorCode) (count : Nat) : State :=
  { s with rcv := { s.rcv with classes := labels, idleCount := count } }

/-- The state after R.FRAME of the expected valid frame with payload `p` (R196). -/
def State.accepted (s : State) (p : Bytes) : State :=
  { s with rcv := ({ s.rcv with idleCount := 0 } : Rcv).accept s.rcv.expected p }

/-- The state after the acknowledgment that matches (R164). -/
def State.confirmed (s : State) : State := { s with snd := s.snd.confirm }

theorem exec_sAck_confirms {s : State} {b : Byte} (hw : s.snd.state = .wait) (hb : b = s.snd.nextSequence) :
    exec (.sAck [b]) s = .next s.confirmed :=
  State.onSnd_eq_next.mpr ⟨_, Snd.ackArrived_eq_next.mpr ⟨hw, .inl ⟨congrArg (fun b => [b]) hb, rfl⟩⟩, rfl⟩

@[simp] theorem Snd.frames_loaded (u : Snd) (c : Bytes) : (u.loaded c).frames = u.frames ++ [u.loadFrame c] :=
  Snd.frames_of_tx (Snd.loaded_out u c)

/-- A chunk between ends that agree, with silences that fit, is confirmed at the first transmission (R196, R163). -/
theorem deliverChunk_passes {s : State} {p : Silence} {c : Bytes} (hi : s.snd.state = .idle) (hr : s.rcv.state = .run)
    (hc : c.length ≤ s.snd.cfg.maxPayload.toNat) (hmax : s.snd.cfg.maxPayload = s.rcv.cfg.maxPayload)
    (hseq : s.snd.nextSequence = s.rcv.expected)
    (hload : s.rcv.cfg.idleLimit = 0 ∨ s.rcv.idleCount + p.beforeLoad < s.rcv.cfg.idleLimit)
    (hack : s.rcv.cfg.idleLimit = 0 ∨ 0 + p.beforeAck.headD 0 < s.rcv.cfg.idleLimit) :
    ∃ labels count, deliverChunk p c s = .next ((((s.loaded c).accepted c).confirmed).silenced labels count)
      ∧ (s.rcv.cfg.idleLimit = 0 ∨ count = p.beforeAck.headD 0) := by
  obtain ⟨l, k, hsilent, -⟩ := silent_of_fits p.beforeLoad hr hload
  have hx : exec (.sLoad c) (s.silenced l k) = .next ((s.silenced l k).loaded c) := exec_sLoad_fits hi hc
  have hdec : decodeFrame s.rcv.cfg.maxPayload.toNat (s.snd.loadFrame c) = .parsed s.rcv.expected c true := by
    rw [← hmax, ← hseq]
    exact Snd.decodeFrame_loadFrame hc
  have hframe : exec (.rFrame ((s.snd.loaded c).frames.getLastD [])) ((s.silenced l k).loaded c)
      = .next (((s.silenced l k).loaded c).accepted c) := by
    rw [Snd.frames_loaded, List.getLastD_concat]
    exact exec_rFrame_of_expected hr hdec
  obtain ⟨l', k', hsilent', hcount⟩ := silent_of_fits (s := ((s.silenced l k).loaded c).accepted c) _ hr hack
  refine ⟨l', k', ?_, by rwa [← Nat.zero_add (p.beforeAck.headD 0)]⟩
  have hround := exchange_round (n := s.snd.cfg.maxRetry) (b := s.rcv.expected) rfl hframe hsilent'
    (by rw [State.accepted, Rcv.acks_accept, List.getLast?_concat]; rfl) (exec_sAck_confirms rfl hseq.symm)
  exact (deliverChunk_of_load hsilent hx).trans (hround.trans (exchange_of_ne_wait _ _ nofun))

/-! ## Transfers between ends that agree -/

/-- Between two chunks of a transfer from `s₀` to `s` that agree, `cs` having been delivered and confirmed, one transmission
each. -/
structure Transferred (s₀ : State) (cs : List Bytes) (s : State) : Prop where
  inv : s.snd.Inv
  idle : s.snd.state = .idle
  run : s.rcv.state = .run
  sndCfg : s.snd.cfg = s₀.snd.cfg
  rcvCfg : s.rcv.cfg = s₀.rcv.cfg
  agree : s.snd.nextSequence = s.rcv.expected
  delivered : s.rcv.delivered = s₀.rcv.delivered ++ cs
  frames : s.snd.frames.length = s₀.snd.frames.length + cs.length
  confirmations : s.snd.confirmations = s₀.snd.confirmations + cs.length
  acks : s.rcv.acks = s₀.rcv.acks ++ (List.range cs.length).map
    (fun i => toByte ((s₀.snd.nextSequence.toNat + i) % s₀.snd.cfg.seqMod.toNat))

/-- A silence that fits leaves the registers and the output lists as they are. -/
theorem Transferred.silenced {s₀ s : State} {cs : List Bytes} (h : Transferred s₀ cs s) (labels : List ErrorCode)
    (count : Nat) : Transferred s₀ cs (s.silenced labels count) :=
  { h with }

/-- One chunk more: its frame bears the number that the chunks before it have advanced the sender to (R25). -/
theorem Transferred.passed {s₀ s : State} {cs : List Bytes} {c : Bytes} (h : Transferred s₀ cs s) (h₀ : s₀.snd.Inv)
    (hc : c.length ≤ s.snd.cfg.maxPayload.toNat) (hmod : s.snd.cfg.seqMod = s.rcv.cfg.seqMod) :
    Transferred s₀ (cs ++ [c]) (((s.loaded c).accepted c).confirmed) := by
  have hlen : (cs ++ [c]).length = cs.length + 1 := List.length_append
  have hnumber : s.rcv.expected = toByte ((s₀.snd.nextSequence.toNat + cs.length) % s₀.snd.cfg.seqMod.toNat) := by
    rw [← h.agree, h.inv.nextSequence_eq, Cfg.numberAt, h.sndCfg, h.confirmations, h₀.count, Nat.mod_add_mod, Nat.add_assoc]
  have hconf : (s.snd.loaded c).confirm.confirmations = s.snd.confirmations + 1 :=
    (Snd.confirmations_of_confirmed (u := s.snd.loaded c) rfl).trans
      (congrArg (· + 1) (Snd.confirmations_of_tx (Snd.loaded_out s.snd c)))
  have hframes : (s.snd.loaded c).confirm.frames = s.snd.frames ++ [s.snd.loadFrame c] :=
    (Snd.frames_of_confirmed (u := s.snd.loaded c) rfl).trans (Snd.frames_loaded s.snd c)
  exact
    { inv := (h.inv.of_move (.load c h.idle hc)).of_move (.confirm rfl)
      idle := rfl, run := h.run, sndCfg := h.sndCfg, rcvCfg := h.rcvCfg
      agree := by
        change seqNext s.snd.cfg s.snd.nextSequence = seqNext s.rcv.cfg s.rcv.expected
        rw [h.agree, seqNext, hmod, seqNext]
      delivered := (Rcv.delivered_accept _ _ c).trans (by rw [← List.append_assoc, ← h.delivered]; rfl)
      frames := by rw [hlen, ← Nat.add_assoc, ← h.frames]; exact congrArg List.length hframes |>.trans List.length_append
      confirmations := by rw [hlen, ← Nat.add_assoc, ← h.confirmations]; exact hconf
      acks := by
        rw [hlen, List.range_succ, List.map_append, ← List.append_assoc, ← h.acks]
        exact (Rcv.acks_accept _ _ c).trans (congrArg (fun b => s.rcv.acks ++ [b]) hnumber) }

/-- The silence before the next chunk, or after the last one, does not reach the limit. -/
theorem silencesFit_beforeLoad {limit idle n : Nat} {ps : List Silence} (h : silencesFit limit idle n ps) :
    limit = 0 ∨ idle + (ps.headD .none).beforeLoad < limit := by
  cases n with
  | zero => exact h
  | succ n => exact h.1

/-- Chunks that fit, with silences that fit, are all delivered and confirmed. -/
theorem deliverChunks_transferred {s₀ s : State} {cs done : List Bytes} {idle : Nat} {ps : List Silence} (h₀ : s₀.snd.Inv)
    (hmax : s₀.snd.cfg.maxPayload = s₀.rcv.cfg.maxPayload) (hmod : s₀.snd.cfg.seqMod = s₀.rcv.cfg.seqMod)
    (hcs : ∀ c ∈ cs, c.length ≤ s₀.snd.cfg.maxPayload.toNat) (h : Transferred s₀ done s)
    (hfit : silencesFit s₀.rcv.cfg.idleLimit idle cs.length ps)
    (hidle : s₀.rcv.cfg.idleLimit = 0 ∨ s.rcv.idleCount = idle) :
    ∃ t, deliverChunks cs ps s = .next t ∧ Transferred s₀ (done ++ cs) t := by
  have hload : s.rcv.cfg.idleLimit = 0 ∨ s.rcv.idleCount + (ps.headD .none).beforeLoad < s.rcv.cfg.idleLimit := by
    have := silencesFit_beforeLoad hfit
    rw [h.rcvCfg]
    omega
  induction cs generalizing done idle ps s with
  | nil =>
    obtain ⟨l, k, hs, -⟩ := silent_of_fits _ h.run hload
    exact ⟨_, hs, by rw [List.append_nil]; exact h.silenced l k⟩
  | cons c cs ih =>
    obtain ⟨hc, hcs⟩ := List.forall_mem_cons.mp hcs
    obtain ⟨-, hrest⟩ := hfit
    have hack := silencesFit_beforeLoad hrest
    obtain ⟨l, k, hx, hk⟩ := deliverChunk_passes (p := ps.headD .none) h.idle h.run (h.sndCfg ▸ hc)
      (by rw [h.sndCfg, h.rcvCfg, hmax]) h.agree hload (by rw [h.rcvCfg]; omega)
    have hnext := (h.passed h₀ (h.sndCfg ▸ hc) (by rw [h.sndCfg, h.rcvCfg, hmod])).silenced l k
    rw [h.rcvCfg] at hk
    obtain ⟨t, ht, htrans⟩ := ih hcs hnext hrest hk (by rw [hnext.rcvCfg]; change _ ∨ k + _ < _; omega)
    refine ⟨t, ?_, by rwa [List.append_assoc] at htrans⟩
    rw [deliverChunks, hx, andThen_next]
    exact ht

/-- R277's first half: a transfer between ends that agree, with silences that fit, delivers the data. -/
theorem transfer_delivers {s : State} {ps : List Silence} (data : Bytes) (hs : s.snd.Inv) (hi : s.snd.state = .idle)
    (hr : s.rcv.state = .run) (hmax : s.snd.cfg.maxPayload = s.rcv.cfg.maxPayload)
    (hmod : s.snd.cfg.seqMod = s.rcv.cfg.seqMod) (hseq : s.snd.nextSequence = s.rcv.expected)
    (hfit : silencesFit s.rcv.cfg.idleLimit s.rcv.idleCount (chunks s.snd.cfg.maxPayload.toNat data).length ps) :
    ∃ t, transfer ps data s = .next t ∧ Transferred s (chunks s.snd.cfg.maxPayload.toNat data) t := by
  obtain ⟨hm, -⟩ := Cfg.legal_iff.mp hs.cfg
  have hrefl : Transferred s [] s :=
    ⟨hs, hi, hr, rfl, rfl, hseq, (List.append_nil _).symm, rfl, rfl, (List.append_nil _).symm⟩
  exact deliverChunks_transferred hs hmax hmod (fun _ => length_le_of_mem_chunks hm) hrefl hfit (.inr rfl)

/-! ## Transfers between any two ends -/

/-- On the way from `s₀`: `k` chunks confirmed, `n` frames transmitted and `m` acknowledgments sent. -/
structure Answered (s₀ : State) (k n m : Nat) (s : State) : Prop where
  inv : s.snd.Inv
  run : s.rcv.state = .run
  sndCfg : s.snd.cfg = s₀.snd.cfg
  rcvCfg : s.rcv.cfg = s₀.rcv.cfg
  confirmations : s.snd.confirmations = s₀.snd.confirmations + k
  frames : s.snd.frames.length = s₀.snd.frames.length + n
  acks : s.rcv.acks.length = s₀.rcv.acks.length + m

/-- A silence of a receiver without a limit, or no silence at all. -/
theorem Answered.silent {s₀ s : State} {k n m w : Nat} (h : Answered s₀ k n m s)
    (hw : s₀.rcv.cfg.idleLimit = 0 ∨ w = 0) : ∃ t, silent w s = .next t ∧ t.snd = s.snd ∧ Answered s₀ k n m t := by
  rcases hw with h0 | rfl
  · obtain ⟨l, j, hs, -⟩ := silent_of_fits w h.run (.inl (h.rcvCfg ▸ h0))
    exact ⟨_, hs, rfl, { h with }⟩
  · exact ⟨s, rfl, rfl, h⟩

/-- R.FRAME of any datagram is answered once (R192). -/
theorem Answered.frame {s₀ s : State} {k n m : Nat} (h : Answered s₀ k n m s) (d : Bytes) :
    ∃ t b, exec (.rFrame d) s = .next t ∧ t.snd = s.snd ∧ t.rcv.acks.getLast? = some b
      ∧ Answered s₀ k n (m + 1) t := by
  obtain ⟨-, hrFrame, -⟩ := rFrameAnswersEveryDatagramOnce s d
  obtain ⟨t, ht, hrun, -, -, hcfg, hsnd, hout⟩ := hrFrame h.run
  obtain ⟨b, hb⟩ : ∃ b, t.rcv.acks = s.rcv.acks ++ [b] := by
    rcases hout with ⟨hout, -⟩ | ⟨p, -, hout, -⟩
    · exact ⟨s.rcv.lastAcked, by simp [Rcv.acks, hout]⟩
    · exact ⟨s.rcv.expected, by simp [Rcv.acks, hout, List.filterMap_cons]⟩
  refine ⟨t, b, ht, hsnd, by rw [hb, List.getLast?_concat], ?_⟩
  exact
    { inv := hsnd ▸ h.inv, run := hrun, sndCfg := hsnd ▸ h.sndCfg, rcvCfg := hcfg.trans h.rcvCfg
      confirmations := hsnd ▸ h.confirmations, frames := hsnd ▸ h.frames
      acks := by rw [hb, List.length_append, h.acks, Nat.add_assoc]; rfl }

/-- An operation of unit SND leaves the receiver's part of the count alone. -/
theorem Answered.snd {s₀ s : State} {k k' n n' m : Nat} {v : Snd} (h : Answered s₀ k n m s) (hv : s.snd.Move v)
    (hconf : v.confirmations + k = s.snd.confirmations + k') (hframes : v.frames.length + n = s.snd.frames.length + n') :
    Answered s₀ k' n' m { s with snd := v } where
  inv := h.inv.of_move hv
  run := h.run
  sndCfg := hv.cfg_eq.trans h.sndCfg
  rcvCfg := h.rcvCfg
  confirmations := by have := h.confirmations; simp only; omega
  frames := by have := h.frames; simp only; omega
  acks := h.acks

/-- S.ACK of any datagram in WAIT: confirmed, transmitted again with a retry counted, or failed (R163, R165). -/
theorem Answered.ack {s₀ s : State} {k n m : Nat} (h : Answered s₀ k n m s) (hw : s.snd.state = .wait) (d : Bytes) :
    ∃ t, exec (.sAck d) s = .next t ∧
      ((t.snd.state = .idle ∧ Answered s₀ (k + 1) n m t)
      ∨ (t.snd.state = .wait ∧ t.snd.retryCount = s.snd.retryCount + 1 ∧ Answered s₀ k (n + 1) m t)
      ∨ (t.snd.state = .failed ∧ t.snd.err = .deliveryFailed ∧ Answered s₀ k n m t)) := by
  obtain ⟨t, ht⟩ := (Answer.datagram d).exists_next_of_wait h.inv hw
  obtain ⟨v, hv, rfl⟩ := State.onSnd_eq_next.mp ht
  have hmove := Snd.Move.of_ackArrived hv
  refine ⟨_, ht, ?_⟩
  obtain ⟨-, ⟨-, rfl⟩ | ⟨-, hr⟩⟩ := Snd.ackArrived_eq_next.mp hv
  · refine .inl ⟨rfl, h.snd hmove ?_ ?_⟩
    · rw [Snd.confirmations_of_confirmed (u := s.snd) rfl, Nat.add_right_comm, Nat.add_assoc]
    · rw [Snd.frames_of_confirmed (u := s.snd) rfl]
  · rcases Snd.retry_eq_next.mp hr with ⟨-, rfl⟩ | ⟨-, f, -, rfl⟩
    · exact .inr (.inr ⟨rfl, rfl, h.snd hmove rfl rfl⟩)
    · refine .inr (.inl ⟨hw, rfl, h.snd hmove ?_ ?_⟩)
      · rw [Snd.confirmations_of_tx (u := s.snd) rfl]
      · rw [Snd.frames_of_tx (u := s.snd) rfl, List.length_append, List.length_singleton, Nat.add_right_comm, Nat.add_assoc]

/-- A pending frame between any two ends: every transmission is answered once, and MAX_RETRY + 1 of them are enough (R172). -/
theorem Answered.exchange {s₀ s : State} {N k n : Nat} {ws : List Nat} (h : Answered s₀ k (n + 1) n s)
    (hws : s₀.rcv.cfg.idleLimit = 0 ∨ ws = []) (hw : s.snd.state = .wait)
    (hN : s.snd.retryCount + N = s₀.snd.cfg.maxRetry + 1) :
    ∃ t n', exchange N ws s = .next t ∧
      ((t.snd.state = .idle ∧ Answered s₀ (k + 1) n' n' t)
      ∨ (t.snd.state = .failed ∧ t.snd.err = .deliveryFailed ∧ Answered s₀ k n' n' t)) := by
  induction N generalizing s n ws with
  | zero =>
    obtain ⟨-, -, hmax⟩ := h.inv.wait hw
    rw [h.sndCfg] at hmax
    omega
  | succ N ih =>
    obtain ⟨v, b, hv, hvsnd, hb, hframe⟩ := h.frame (s.snd.frames.getLastD [])
    obtain ⟨w, hsilent, hwsnd, hwait⟩ := hframe.silent (w := ws.headD 0) (hws.imp_right (by rintro rfl; rfl))
    have hsnd := hwsnd.trans hvsnd
    obtain ⟨x, hx, hcases⟩ := hwait.ack (hsnd ▸ hw) [b]
    rw [exchange_round hw hv hsilent hb hx]
    rcases hcases with ⟨hst, hdone⟩ | ⟨hst, hcount, hmore⟩ | ⟨hst, herr, hfail⟩
    · exact ⟨x, n + 1, exchange_of_ne_wait _ _ (by simp [hst]), .inl ⟨hst, hdone⟩⟩
    · exact ih hmore (hws.imp_right (by rintro rfl; rfl)) hst (by rw [hcount, hsnd]; omega)
    · exact ⟨x, n + 1, exchange_of_ne_wait _ _ (by simp [hst]), .inr ⟨hst, herr, hfail⟩⟩

/-- A chunk between any two ends is confirmed, or the sender fails with DeliveryFailed. -/
theorem Answered.deliverChunk {s₀ s : State} {k n : Nat} {p : Silence} {c : Bytes} (h : Answered s₀ k n n s)
    (hp : s₀.rcv.cfg.idleLimit = 0 ∨ p = .none) (hi : s.snd.state = .idle)
    (hc : c.length ≤ s₀.snd.cfg.maxPayload.toNat) :
    ∃ t n', deliverChunk p c s = .next t ∧
      ((t.snd.state = .idle ∧ Answered s₀ (k + 1) n' n' t)
      ∨ (t.snd.state = .failed ∧ t.snd.err = .deliveryFailed ∧ Answered s₀ k n' n' t)) := by
  obtain ⟨r, hr, hsnd, hsilent⟩ := h.silent (w := p.beforeLoad) (hp.imp_right (by rintro rfl; rfl))
  have hfits : c.length ≤ r.snd.cfg.maxPayload.toNat := hsilent.sndCfg ▸ hc
  have hidle : r.snd.state = .idle := hsnd ▸ hi
  have hloaded : Answered s₀ k (n + 1) n (r.loaded c) := hsilent.snd (.load c hidle hfits)
    (by rw [Snd.confirmations_of_tx (Snd.loaded_out r.snd c)])
    (by rw [Snd.frames_loaded, List.length_append, List.length_singleton, Nat.add_right_comm, Nat.add_assoc])
  rw [deliverChunk_of_load hr (exec_sLoad_fits hidle hfits), h.sndCfg]
  exact hloaded.exchange (hp.imp_right (by rintro rfl; rfl)) rfl (Nat.zero_add _)

/-- Silences of a receiver without a limit, or none at all, one chunk after the other. -/
theorem silences_cases {limit : Nat} {ps : List Silence} (h : limit = 0 ∨ ps = []) :
    (limit = 0 ∨ ps.headD .none = .none) ∧ (limit = 0 ∨ ps.tail = []) := by
  rcases h with h | rfl
  · exact ⟨.inl h, .inl h⟩
  · exact ⟨.inr rfl, .inr rfl⟩

/-- Chunks between any two ends are all confirmed, or the sender fails with DeliveryFailed before they are. -/
theorem Answered.deliverChunks {s₀ s : State} {k n : Nat} {cs : List Bytes} {ps : List Silence} (h : Answered s₀ k n n s)
    (hps : s₀.rcv.cfg.idleLimit = 0 ∨ ps = []) (hi : s.snd.state = .idle)
    (hcs : ∀ c ∈ cs, c.length ≤ s₀.snd.cfg.maxPayload.toNat) :
    ∃ t n', deliverChunks cs ps s = .next t ∧
      ((t.snd.state = .idle ∧ Answered s₀ (k + cs.length) n' n' t)
      ∨ ∃ j < k + cs.length, t.snd.state = .failed ∧ t.snd.err = .deliveryFailed ∧ Answered s₀ j n' n' t) := by
  obtain ⟨hhead, htail⟩ := silences_cases hps
  induction cs generalizing k n ps s with
  | nil =>
    obtain ⟨t, ht, hsnd, hsilent⟩ := h.silent (hhead.imp_right (congrArg Silence.beforeLoad))
    exact ⟨t, n, ht, .inl ⟨hsnd ▸ hi, hsilent⟩⟩
  | cons c cs ih =>
    obtain ⟨hc, hcs⟩ := List.forall_mem_cons.mp hcs
    obtain ⟨hnext, hrest⟩ := silences_cases htail
    obtain ⟨r, n', hr, ⟨hst, hdone⟩ | ⟨hst, herr, hfail⟩⟩ := h.deliverChunk hhead hi hc
    · obtain ⟨t, n'', ht, hend⟩ := ih hdone htail hst hcs hnext hrest
      rw [List.length_cons, Nat.add_comm cs.length, ← Nat.add_assoc]
      refine ⟨t, n'', ?_, hend⟩
      simp only [Machine.deliverChunks, hr, andThen_next, hst, ht]
    · obtain ⟨t, ht, hsnd, hsilent⟩ := hfail.silent (hnext.imp_right (congrArg Silence.beforeLoad))
      refine ⟨t, n', ?_, .inr ⟨k, by simp, hsnd ▸ hst, hsnd ▸ herr, hsilent⟩⟩
      simp only [Machine.deliverChunks, hr, andThen_next, hst, ht]

/-- Settles O56: a transfer between ends that agree passes chunk by chunk, and one between any two ends is answered frame by
frame. -/
theorem faultFreeTransferDeliversTheData : Obligations.FaultFreeTransferDeliversTheData := by
  refine ⟨fun s ps data hs hi hr hmax hmod hseq hfit => ?_, fun s ps data hs hi hr hps => ?_⟩
  · obtain ⟨hm, -⟩ := Cfg.legal_iff.mp hs.snd.cfg
    obtain ⟨-, -, hflat⟩ := chunksSplitInOrder s.snd.cfg.maxPayload.toNat data hm
    obtain ⟨t, ht, h⟩ := transfer_delivers data hs.snd hi hr hmax hmod hseq hfit
    obtain ⟨-, hretry, -⟩ := h.inv.idle h.idle
    have hsink : t.rcv.sink = s.rcv.sink ++ data := by
      rw [Rcv.sink, h.delivered, List.flatten_append, hflat, Rcv.sink]
    exact ⟨t, ht, h.idle, h.run, hretry, hsink, h.delivered, h.frames, h.confirmations, h.acks, h.agree⟩
  · obtain ⟨hm, -⟩ := Cfg.legal_iff.mp hs.snd.cfg
    have hrefl : Answered s 0 0 0 s := ⟨hs.snd, hr, rfl, rfl, rfl, rfl, rfl⟩
    obtain ⟨t, n, ht, hend⟩ := hrefl.deliverChunks (cs := chunks s.snd.cfg.maxPayload.toNat data) hps hi
      (fun _ => length_le_of_mem_chunks hm)
    rw [Nat.zero_add] at hend
    rcases hend with ⟨hst, h⟩ | ⟨j, hj, hst, herr, h⟩
    · exact ⟨t, n, ht, h.run, h.frames, h.acks, .inl ⟨hst, h.confirmations⟩⟩
    · exact ⟨t, n, ht, h.run, h.frames, h.acks, .inr ⟨hst, herr, by rw [h.confirmations]; omega⟩⟩

end Sys2Proof.Machine
end

section
/-! The in-order channel of R278. Each frame in the channel is one of a chunk, each acknowledgment one of a count of
deliveries; both rise along the channel, so what is delivered from the cursors on is current or one behind, and the numbers,
SEQ_MOD being at least 2, tell the two apart. -/

namespace Sys2Proof.Machine

/-! ## Rising lists -/

/-- An entry of a list with entries appended is one of the list or an appended one. -/
theorem getElem?_append_cases {xs ys : List Nat} {k x : Nat} (h : (xs ++ ys)[k]? = some x) : xs[k]? = some x ∨ x ∈ ys := by
  rw [List.getElem?_append] at h
  split at h
  · exact .inl h
  · exact .inr (List.mem_of_getElem? h)

theorem le_of_pairwise_le {xs : List Nat} (hxs : xs.Pairwise (· ≤ ·)) {k k' x x' : Nat} (hk : k ≤ k')
    (hx : xs[k]? = some x) (hx' : xs[k']? = some x') : x ≤ x' := by
  obtain ⟨h, rfl⟩ := List.getElem?_eq_some_iff.mp hx
  obtain ⟨h', rfl⟩ := List.getElem?_eq_some_iff.mp hx'
  rcases Nat.eq_or_lt_of_le hk with rfl | hlt
  · exact Nat.le_refl _
  · exact List.pairwise_iff_getElem.mp hxs k k' h h' hlt

theorem pairwise_le_append {xs ys : List Nat} {b : Nat} (hxs : xs.Pairwise (· ≤ ·)) (hb : ∀ x ∈ xs, x ≤ b)
    (hys : ys = [] ∨ ys = [b]) : (xs ++ ys).Pairwise (· ≤ ·) := by
  rcases hys with rfl | rfl
  · rwa [List.append_nil]
  · exact List.pairwise_append.mpr ⟨hxs, List.pairwise_singleton _ _, fun x hx y hy =>
      List.mem_singleton.mp hy ▸ hb x hx⟩

/-! ## What the sender has transmitted -/

/-- The frame of chunk `n` of `cs` (R162). -/
def Cfg.frameOf (c : Cfg) (cs : List Bytes) (n : Nat) : Bytes :=
  assemble (toByte (csum255 (cs.getD n []))) (c.numberAt n) (cs.getD n [])

theorem Snd.Inv.loadFrame_eq {u : Snd} (h : u.Inv) {cs : List Bytes} {c : Bytes} (hc : cs[u.confirmations]? = some c) :
    u.loadFrame c = u.cfg.frameOf cs u.confirmations := by
  rw [Snd.loadFrame, h.nextSequence_eq, Cfg.frameOf, List.getD_eq_getElem?_getD, hc, Option.getD_some]

/-- Unit SND when `n` of the chunks `cs` have been presented and its frames are those of the chunks `sent`. -/
structure SentInOrder (cs : List Bytes) (n : Nat) (sent : List Nat) (u : Snd) : Prop where
  inv : u.Inv
  frames : u.frames = sent.map (u.cfg.frameOf cs)
  rising : sent.Pairwise (· ≤ ·)
  lt : ∀ k ∈ sent, k < n
  le : n ≤ u.confirmations + 1
  idle : u.state = .idle → n = u.confirmations
  wait : u.state = .wait → n = u.confirmations + 1 ∧ u.pending = some (u.cfg.frameOf cs u.confirmations)

/-- S.LOAD of the next chunk (R162). -/
theorem SentInOrder.load {cs : List Bytes} {n : Nat} {sent : List Nat} {u : Snd} {c : Bytes} (h : SentInOrder cs n sent u)
    (hi : u.state = .idle) (hc : cs[n]? = some c) (hfit : c.length ≤ u.cfg.maxPayload.toNat) :
    SentInOrder cs (n + 1) (sent ++ [n]) (u.loaded c) := by
  have hn := h.idle hi
  have hframe : u.loadFrame c = u.cfg.frameOf cs n := hn ▸ h.inv.loadFrame_eq (hn ▸ hc)
  have hconf : (u.loaded c).confirmations = n := (Snd.confirmations_of_tx (Snd.loaded_out u c)).trans hn.symm
  exact
    { inv := h.inv.of_move (.load c hi hfit)
      frames := by rw [Snd.frames_loaded, h.frames, hframe, List.map_append, Snd.loaded_cfg]; rfl
      rising := pairwise_le_append h.rising (fun k hk => (h.lt k hk).le) (.inr rfl)
      lt := by
        intro k hk
        rcases List.mem_append.mp hk with hk | hk
        · exact (h.lt k hk).trans (Nat.lt_succ_self n)
        · exact List.mem_singleton.mp hk ▸ Nat.lt_succ_self n
      le := by rw [hconf]
      idle := nofun
      wait := fun _ => ⟨by rw [hconf], by rw [Snd.loaded_pending, hframe, hconf, Snd.loaded_cfg]⟩ }

/-- CONFIRM (R164). -/
theorem SentInOrder.confirm {cs : List Bytes} {n : Nat} {sent : List Nat} {u : Snd} (h : SentInOrder cs n sent u)
    (hw : u.state = .wait) : SentInOrder cs n sent u.confirm := by
  obtain ⟨hn, -⟩ := h.wait hw
  have hconf : u.confirm.confirmations = n := (Snd.confirmations_of_confirmed (u := u) rfl).trans hn.symm
  exact
    { inv := h.inv.of_move (.confirm hw)
      frames := (Snd.frames_of_confirmed (u := u) rfl).trans h.frames
      rising := h.rising, lt := h.lt, le := by omega, idle := fun _ => hconf.symm, wait := nofun }

/-- Unit SND after an operation that confirms nothing: it may have transmitted the frame of the last chunk presented. -/
structure SentMore (cs : List Bytes) (n : Nat) (sent : List Nat) (u v : Snd) (more : List Nat) : Prop where
  sent : SentInOrder cs n (sent ++ more) v
  cfg : v.cfg = u.cfg
  confirmations : v.confirmations = u.confirmations
  last : ∀ k ∈ more, k + 1 = n

/-- RETRY, of the unit or of the unit with a label added (R165). -/
theorem SentInOrder.retry {cs : List Bytes} {n : Nat} {sent : List Nat} {u v : Snd} {labels : List ErrorCode}
    (h : SentInOrder cs n sent u) (hw : u.state = .wait) (hv : Snd.retry { u with classes := labels } = .next v) :
    ∃ more, SentMore cs n sent u v more := by
  obtain ⟨hn, hp⟩ := h.wait hw
  have hinv := h.inv.of_move (.of_retry hw hv)
  rcases Snd.retry_eq_next.mp hv with ⟨-, rfl⟩ | ⟨-, f, hf, rfl⟩
  · refine ⟨[], ?_, rfl, rfl, nofun⟩
    rw [List.append_nil]
    exact { h with inv := hinv, idle := nofun, wait := nofun }
  · obtain rfl : u.cfg.frameOf cs u.confirmations = f := Option.some.inj (hp.symm.trans hf)
    have hconf := Snd.confirmations_of_tx (u := u) (f := u.cfg.frameOf cs u.confirmations) (v :=
      { u with
        retryCount := u.retryCount + 1, classes := labels, out := u.out ++ [.tx (u.cfg.frameOf cs u.confirmations)] }) rfl
    refine ⟨[u.confirmations], ?_, rfl, hconf, fun k hk => by rw [List.mem_singleton.mp hk, hn]⟩
    exact
      { inv := hinv
        frames := (Snd.frames_of_tx (u := u) rfl).trans (by rw [h.frames, List.map_append]; rfl)
        rising := pairwise_le_append h.rising (fun k hk => Nat.le_of_lt_succ ((h.lt k hk).trans_eq hn)) (.inr rfl)
        lt := by
          intro k hk
          rcases List.mem_append.mp hk with hk | hk
          · exact h.lt k hk
          · rw [List.mem_singleton.mp hk, hn]
            exact Nat.lt_succ_self _
        le := hconf.symm ▸ h.le
        idle := fun hi => nomatch hw.symm.trans hi
        wait := fun _ => ⟨hconf.symm ▸ hn, hconf.symm ▸ hp⟩ }

/-- S.CLOSED and S.CANCEL (R167, R168). -/
theorem SentInOrder.raise {cs : List Bytes} {n : Nat} {sent : List Nat} {u : Snd} {e : ErrorCode} (h : SentInOrder cs n sent u)
    (hs : u.state ≠ .failed) (he : e = .channelClosed ∨ e = .cancelled) : SentMore cs n sent u (u.raise e) [] := by
  refine ⟨?_, rfl, rfl, nofun⟩
  rw [List.append_nil]
  exact { h with inv := h.inv.of_move (.raise e hs he), idle := nofun, wait := nofun }

/-! ## What the receiver has acknowledged -/

/-- Unit RCV when it has delivered the first chunks of `cs`, and its acknowledgments were sent after the deliveries counted in
`counts`. -/
structure AckedInOrder (cs : List Bytes) (counts : List Nat) (v : Rcv) : Prop where
  inv : v.Inv
  delivered : v.delivered <+: cs
  acks : v.acks = counts.map v.cfg.ackAt
  rising : counts.Pairwise (· ≤ ·)
  le : ∀ d ∈ counts, d ≤ v.delivered.length

/-- A datagram is answered by the acknowledgment of the deliveries made (R192, R196). -/
theorem AckedInOrder.answer {cs : List Bytes} {counts : List Nat} {v w : Rcv} (h : AckedInOrder cs counts v) (hw : v.Move w)
    (hdel : w.delivered <+: cs) (hacks : w.acks = v.acks ++ [w.lastAcked]) :
    AckedInOrder cs (counts ++ [w.delivered.length]) w := by
  have hle : ∀ d ∈ counts, d ≤ w.delivered.length := fun d hd => (h.le d hd).trans hw.delivered_prefix.length_le
  have hinv := h.inv.of_move hw
  exact
    { inv := hinv, delivered := hdel
      acks := by rw [hacks, h.acks, List.map_append, hinv.lastAcked_eq, hw.cfg_eq]; rfl
      rising := pairwise_le_append h.rising hle (.inr rfl)
      le := by
        intro d hd
        rcases List.mem_append.mp hd with hd | hd
        · exact hle d hd
        · exact (List.mem_singleton.mp hd).le }

/-- An operation that emits nothing. -/
theorem AckedInOrder.quiet {cs : List Bytes} {counts : List Nat} {v w : Rcv} (h : AckedInOrder cs counts v) (hw : v.Move w)
    (hout : w.out = v.out) : AckedInOrder cs counts w where
  inv := h.inv.of_move hw
  delivered := by rw [Rcv.delivered, hout]; exact h.delivered
  acks := by rw [Rcv.acks, hout, hw.cfg_eq]; exact h.acks
  rising := h.rising
  le := by rw [Rcv.delivered, hout]; exact h.le

/-! ## The link -/

/-- The link with `n` of the chunks `cs` presented, the frames of the chunks `sent` and the acknowledgments of `counts` in the
channel: what the cursors let through is at most one behind. -/
structure Link.InOrder (cs : List Bytes) (n : Nat) (sent counts : List Nat) (l : Link) : Prop where
  sender : SentInOrder cs n sent l.hw.snd
  receiver : AckedInOrder cs counts l.hw.rcv
  maxPayload : l.hw.snd.cfg.maxPayload = l.hw.rcv.cfg.maxPayload
  seqMod : l.hw.snd.cfg.seqMod = l.hw.rcv.cfg.seqMod
  startSeq : l.hw.snd.cfg.startSeq = l.hw.rcv.cfg.startSeq
  fits : ∀ c ∈ cs, c.length ≤ l.hw.snd.cfg.maxPayload.toNat
  todo : l.todo = cs.drop n
  presented : n ≤ cs.length
  confirmed_le : l.hw.snd.confirmations ≤ l.hw.rcv.delivered.length
  delivered_le : l.hw.rcv.delivered.length ≤ n
  frameCursor : ∀ i k, l.frameCursor ≤ i → sent[i]? = some k → l.hw.rcv.delivered.length ≤ k + 1
  ackCursor : ∀ i d, l.ackCursor ≤ i → counts[i]? = some d → l.hw.snd.confirmations ≤ d

/-- The link is in order, whatever is in the channel. -/
def Link.Ordered (cs : List Bytes) (l : Link) : Prop := ∃ n sent counts, l.InOrder cs n sent counts

section
variable {cs : List Bytes} {n : Nat} {sent counts : List Nat} {l : Link}

/-- The number of a confirmed frame at the sender is that of the receiver's configuration too (R271). -/
theorem Link.InOrder.nextSequence (h : l.InOrder cs n sent counts) :
    l.hw.snd.nextSequence = l.hw.rcv.cfg.numberAt l.hw.snd.confirmations := by
  rw [h.sender.inv.nextSequence_eq, Cfg.numberAt_congr h.seqMod h.startSeq]

/-- An operation of unit SND that confirms nothing; the acknowledgment cursor may have advanced. -/
theorem Link.InOrder.sentMore {v : Snd} {more : List Nat} {j : Nat} (h : l.InOrder cs n sent counts)
    (hv : SentMore cs n sent l.hw.snd v more) (hj : l.ackCursor ≤ j) :
    Link.InOrder cs n (sent ++ more) counts { l with hw := { l.hw with snd := v }, ackCursor := j } where
  sender := hv.sent
  receiver := h.receiver
  maxPayload := hv.cfg ▸ h.maxPayload
  seqMod := hv.cfg ▸ h.seqMod
  startSeq := hv.cfg ▸ h.startSeq
  fits := hv.cfg ▸ h.fits
  todo := h.todo
  presented := h.presented
  confirmed_le := hv.confirmations ▸ h.confirmed_le
  delivered_le := h.delivered_le
  frameCursor := by
    intro i k hi hk
    rcases getElem?_append_cases hk with hk | hk
    · exact h.frameCursor i k hi hk
    · exact hv.last k hk ▸ h.delivered_le
  ackCursor := fun i d hi hd => hv.confirmations ▸ h.ackCursor i d (hj.trans hi) hd

/-- S.LOAD of the next chunk. -/
theorem Link.InOrder.load {c : Bytes} {todo : List Bytes} (h : l.InOrder cs n sent counts) (hi : l.hw.snd.state = .idle)
    (htodo : l.todo = c :: todo) :
    Link.InOrder cs (n + 1) (sent ++ [n]) counts { l with hw := l.hw.loaded c, todo := todo } := by
  have hdrop : cs.drop n = c :: todo := h.todo.symm.trans htodo
  have hc : cs[n]? = some c := by rw [← List.head?_drop, hdrop, List.head?_cons]
  have hconf : (l.hw.snd.loaded c).confirmations = l.hw.snd.confirmations := Snd.confirmations_of_tx (Snd.loaded_out l.hw.snd c)
  exact
    { sender := h.sender.load hi hc (h.fits c (List.mem_of_getElem? hc))
      receiver := h.receiver, maxPayload := h.maxPayload, seqMod := h.seqMod, startSeq := h.startSeq, fits := h.fits
      todo := by rw [← List.tail_drop, hdrop, List.tail_cons]
      presented := (List.getElem?_eq_some_iff.mp hc).1
      confirmed_le := hconf.trans_le h.confirmed_le
      delivered_le := h.delivered_le.trans (Nat.le_succ n)
      frameCursor := by
        intro i k hi hk
        rcases getElem?_append_cases hk with hk | hk
        · exact h.frameCursor i k hi hk
        · exact List.mem_singleton.mp hk ▸ h.delivered_le.trans (Nat.le_succ n)
      ackCursor := fun i d hi hd => hconf.trans_le (h.ackCursor i d hi hd) }

/-- The acknowledgment at `j` matches only if it was sent after the pending chunk's delivery (R163). -/
theorem Link.InOrder.confirm {j d : Nat} (h : l.InOrder cs n sent counts) (hw : l.hw.snd.state = .wait) (hj : l.ackCursor ≤ j)
    (hd : counts[j]? = some d) (hmatch : l.hw.rcv.cfg.ackAt d = l.hw.snd.nextSequence) :
    Link.InOrder cs n sent counts { l with hw := l.hw.confirmed, ackCursor := j } := by
  obtain ⟨hn, -⟩ := h.sender.wait hw
  have hle := h.receiver.le d (List.mem_of_getElem? hd)
  have hdn := h.delivered_le
  have hcount : d = l.hw.snd.confirmations + 1 :=
    (Cfg.ackAt_eq_numberAt h.receiver.inv.cfg (h.ackCursor j d hj hd) (by omega)).mp (hmatch.trans h.nextSequence)
  have hconf : l.hw.snd.confirm.confirmations = l.hw.snd.confirmations + 1 := Snd.confirmations_of_confirmed rfl
  exact
    { h with
      sender := h.sender.confirm hw
      confirmed_le := by change l.hw.snd.confirm.confirmations ≤ l.hw.rcv.delivered.length; omega
      ackCursor := by
        intro i d' hi hd'
        have := le_of_pairwise_le h.receiver.rising hi hd hd'
        change l.hw.snd.confirm.confirmations ≤ _
        omega }

/-- An operation of unit RCV that emits nothing. -/
theorem Link.InOrder.quiet {v : Rcv} (h : l.InOrder cs n sent counts) (hv : l.hw.rcv.Move v) (hout : v.out = l.hw.rcv.out) :
    Link.InOrder cs n sent counts { l with hw := { l.hw with rcv := v } } := by
  have hdel : v.delivered = l.hw.rcv.delivered := by rw [Rcv.delivered, hout, Rcv.delivered]
  have hcfg := hv.cfg_eq
  exact
    { sender := h.sender, receiver := h.receiver.quiet hv hout
      maxPayload := hcfg.symm ▸ h.maxPayload, seqMod := hcfg.symm ▸ h.seqMod, startSeq := hcfg.symm ▸ h.startSeq
      fits := h.fits, todo := h.todo, presented := h.presented
      confirmed_le := hdel.symm ▸ h.confirmed_le, delivered_le := hdel.symm ▸ h.delivered_le
      frameCursor := hdel.symm ▸ h.frameCursor, ackCursor := h.ackCursor }

/-- A datagram that is answered, the chunks delivered still being the first ones and the frame cursor at `j`. -/
theorem Link.InOrder.answer {v : Rcv} {j : Nat} (h : l.InOrder cs n sent counts) (hv : l.hw.rcv.Move v)
    (hacks : v.acks = l.hw.rcv.acks ++ [v.lastAcked]) (hdel : v.delivered <+: cs) (hle : v.delivered.length ≤ n)
    (hcursor : ∀ i k, j ≤ i → sent[i]? = some k → v.delivered.length ≤ k + 1) :
    Link.InOrder cs n sent (counts ++ [v.delivered.length]) { l with hw := { l.hw with rcv := v }, frameCursor := j } := by
  have hcfg := hv.cfg_eq
  have hconf := h.confirmed_le.trans hv.delivered_prefix.length_le
  exact
    { sender := h.sender, receiver := h.receiver.answer hv hdel hacks
      maxPayload := hcfg.symm ▸ h.maxPayload, seqMod := hcfg.symm ▸ h.seqMod, startSeq := hcfg.symm ▸ h.startSeq
      fits := h.fits, todo := h.todo, presented := h.presented
      confirmed_le := hconf, delivered_le := hle, frameCursor := hcursor
      ackCursor := by
        intro i d hi hd
        rcases getElem?_append_cases hd with hd | hd
        · exact h.ackCursor i d hi hd
        · exact List.mem_singleton.mp hd ▸ hconf }

/-- A datagram that is rejected. -/
theorem Link.InOrder.reject {d : Bytes} {e : ErrorCode} {j : Nat} (h : l.InOrder cs n sent counts)
    (hr : l.hw.rcv.state = .run) (he : l.hw.rcv.rejection d = some e) (hj : l.frameCursor ≤ j) :
    Link.Ordered cs
      { l with hw := { l.hw with rcv := ({ l.hw.rcv with idleCount := 0 } : Rcv).reject e }, frameCursor := j } := by
  have hdel : (({ l.hw.rcv with idleCount := 0 } : Rcv).reject e).delivered = l.hw.rcv.delivered := Rcv.delivered_reject _ e
  exact ⟨_, _, _, h.answer (.reject d e hr he) (Rcv.acks_reject _ e) (hdel.symm ▸ h.receiver.delivered)
    (hdel.symm ▸ h.delivered_le) (fun i k hi hk => hdel.symm ▸ h.frameCursor i k (hj.trans hi) hk)⟩

/-- The frame at `j` is accepted only if it is the next chunk's (R195, R196). -/
theorem Link.InOrder.accept {j k : Nat} {p : Bytes} (h : l.InOrder cs n sent counts) (hr : l.hw.rcv.state = .run)
    (hj : l.frameCursor ≤ j) (hk : sent[j]? = some k)
    (hp : decodeFrame l.hw.rcv.cfg.maxPayload.toNat (l.hw.snd.cfg.frameOf cs k) = .parsed l.hw.rcv.expected p true) :
    Link.Ordered cs { l with hw := l.hw.accepted p, frameCursor := j } := by
  have hkn := h.sender.lt k (List.mem_of_getElem? hk)
  have hklt : k < cs.length := hkn.trans_le h.presented
  have hchunk : cs.getD k [] = cs[k] := (List.getD_eq_getElem cs [] hklt)
  have hfit : cs[k].length ≤ l.hw.rcv.cfg.maxPayload.toNat := h.maxPayload ▸ h.fits _ (List.getElem_mem hklt)
  have hdec := hp
  rw [Cfg.frameOf, hchunk, decodeFrame_assemble_eq_parsed (hfit.trans_lt l.hw.rcv.cfg.maxPayload.isLt)] at hp
  obtain ⟨-, hnumber, rfl, -⟩ := hp
  rw [Cfg.numberAt_congr h.seqMod h.startSeq, h.receiver.inv.expected_eq] at hnumber
  have hle := h.sender.le
  have hconf := h.confirmed_le
  obtain rfl := Cfg.eq_of_numberAt_eq h.receiver.inv.cfg (by omega) (h.frameCursor j k hj hk) hnumber
  have hdel : (({ l.hw.rcv with idleCount := 0 } : Rcv).accept l.hw.rcv.expected cs[l.hw.rcv.delivered.length]).delivered
      = cs.take (l.hw.rcv.delivered.length + 1) := by
    rw [← List.take_append_getElem hklt, ← List.prefix_iff_eq_take.mp h.receiver.delivered]
    exact Rcv.delivered_accept _ _ _
  have hlen := (congrArg List.length hdel).trans (List.length_take_of_le hklt)
  have hmove := Rcv.Move.of_frameArrived (Rcv.frameArrived_eq_next.mpr ⟨hr, .inr ⟨_, hdec, rfl⟩⟩)
  refine ⟨_, _, _, h.answer hmove (Rcv.acks_accept _ _ _) (hdel ▸ List.take_prefix _ cs) (hlen.trans_le hkn) ?_⟩
  intro i k' hi hk'
  rw [hlen]
  exact Nat.succ_le_succ (le_of_pairwise_le h.sender.rising hi hk hk')

/-- A copy of the frame at `j`: rejected, or accepted as the next chunk's. -/
theorem Link.InOrder.frameCopy {j k : Nat} {v : Rcv} (h : l.InOrder cs n sent counts) (hj : l.frameCursor ≤ j)
    (hk : sent[j]? = some k) (hv : l.hw.rcv.frameArrived (l.hw.snd.cfg.frameOf cs k) = .next v) :
    Link.Ordered cs { l with hw := { l.hw with rcv := v }, frameCursor := j } := by
  obtain ⟨hr, ⟨e, he, rfl⟩ | ⟨p, hp, rfl⟩⟩ := Rcv.frameArrived_eq_next.mp hv
  · exact h.reject hr he hj
  · exact h.accept hr hj hk hp

/-- An altered frame is rejected (R278). -/
theorem Link.InOrder.frameAltered {d : Bytes} {v : Rcv} (h : l.InOrder cs n sent counts)
    (hd : alterationDetected l.hw.rcv.cfg.maxPayload.toNat d = true) (hv : l.hw.rcv.frameArrived d = .next v) :
    Link.Ordered cs { l with hw := { l.hw with rcv := v } } := by
  obtain ⟨hr, ⟨e, he, rfl⟩ | ⟨p, hp, -⟩⟩ := Rcv.frameArrived_eq_next.mp hv
  · exact h.reject hr he (Nat.le_refl _)
  · simp [alterationDetected, hp] at hd

/-- A RETRY leaves the link in order. -/
theorem Link.InOrder.retry {v : Snd} {labels : List ErrorCode} {j : Nat} (h : l.InOrder cs n sent counts)
    (hw : l.hw.snd.state = .wait) (hv : Snd.retry { l.hw.snd with classes := labels } = .next v) (hj : l.ackCursor ≤ j) :
    Link.Ordered cs { l with hw := { l.hw with snd := v }, ackCursor := j } := by
  obtain ⟨more, hmore⟩ := h.sender.retry hw hv
  exact ⟨_, _, _, h.sentMore hmore hj⟩

/-- A copy of the acknowledgment at `j`: a confirmation of the pending chunk, or a retry. -/
theorem Link.InOrder.ackCopy {j d : Nat} {v : Snd} (h : l.InOrder cs n sent counts) (hj : l.ackCursor ≤ j)
    (hd : counts[j]? = some d) (hv : l.hw.snd.ackArrived [l.hw.rcv.cfg.ackAt d] = .next v) :
    Link.Ordered cs { l with hw := { l.hw with snd := v }, ackCursor := j } := by
  obtain ⟨hw, ⟨hmatch, rfl⟩ | ⟨-, hr⟩⟩ := Snd.ackArrived_eq_next.mp hv
  · exact ⟨_, _, _, h.confirm hw hj hd (List.singleton_inj.mp hmatch)⟩
  · exact h.retry hw hr hj

/-- S.CLOSED and S.CANCEL leave the link in order. -/
theorem Link.InOrder.raise {e : ErrorCode} (h : l.InOrder cs n sent counts) (hs : l.hw.snd.state ≠ .failed)
    (he : e = .channelClosed ∨ e = .cancelled) : Link.Ordered cs { l with hw := { l.hw with snd := l.hw.snd.raise e } } :=
  ⟨_, _, _, h.sentMore (h.sender.raise hs he) (Nat.le_refl _)⟩

end

/-! ## Moves -/

/-- An operation of the link that has a step (R278). -/
theorem Link.exec_eq_some {l l' : Link} {i : Instr} :
    l.exec i = some l' ↔ ∃ t, Machine.exec i l.hw = .next t ∧ l' = { l with hw := t } := by
  cases h : Machine.exec i l.hw <;> simp [Link.exec, nextOf, h, eq_comm]

/-- An operation of unit SND on the link. -/
theorem Link.snd_of_exec {l l' : Link} {i : Instr} {op : Snd → Out Snd} (hop : ∀ s, Machine.exec i s = s.onSnd (op s.snd))
    (h : l.exec i = some l') : ∃ v, op l.hw.snd = .next v ∧ l' = { l with hw := { l.hw with snd := v } } := by
  obtain ⟨t, ht, rfl⟩ := Link.exec_eq_some.mp h
  obtain ⟨v, hv, rfl⟩ := State.onSnd_eq_next.mp (hop l.hw ▸ ht)
  exact ⟨v, hv, rfl⟩

/-- An operation of unit RCV on the link. -/
theorem Link.rcv_of_exec {l l' : Link} {i : Instr} {op : Rcv → Out Rcv} (hop : ∀ s, Machine.exec i s = s.onRcv (op s.rcv))
    (h : l.exec i = some l') : ∃ v, op l.hw.rcv = .next v ∧ l' = { l with hw := { l.hw with rcv := v } } := by
  obtain ⟨t, ht, rfl⟩ := Link.exec_eq_some.mp h
  obtain ⟨v, hv, rfl⟩ := State.onRcv_eq_next.mp (hop l.hw ▸ ht)
  exact ⟨v, hv, rfl⟩

/-- Every move of the environment leaves the link in order. -/
theorem Link.Ordered.move {cs : List Bytes} {l l' : Link} {m : LinkMove} (h : l.Ordered cs) (hm : l.move m = some l') :
    l'.Ordered cs := by
  obtain ⟨n, sent, counts, h⟩ := h
  cases m with
  | load =>
    cases htodo : l.todo with
    | nil => simp [Link.move, htodo] at hm
    | cons c todo =>
      simp only [Link.move, htodo] at hm
      obtain ⟨v, hv, rfl⟩ := Link.snd_of_exec (op := Snd.load c) (fun _ => rfl) hm
      have hc := h.fits c (List.mem_of_mem_drop (h.todo ▸ htodo ▸ List.mem_cons_self))
      obtain ⟨hi, ⟨hlarge, -⟩ | ⟨-, rfl⟩⟩ := Snd.load_eq_next.mp hv
      · exact absurd hc (Nat.not_le_of_lt hlarge)
      · exact ⟨_, _, _, h.load hi htodo⟩
  | frameCopy j =>
    simp only [Link.move, h.sender.frames, List.getElem?_map] at hm
    cases hk : sent[j]? with
    | none => simp [hk] at hm
    | some k =>
      simp only [hk, Option.map_some, Option.ite_none_right_eq_some] at hm
      obtain ⟨hj, hm⟩ := hm
      obtain ⟨v, hv, rfl⟩ := Link.rcv_of_exec (op := Rcv.frameArrived _) (fun _ => rfl) hm
      exact h.frameCopy hj hk hv
  | frameAltered d =>
    simp only [Link.move, Option.ite_none_right_eq_some] at hm
    obtain ⟨hd, hm⟩ := hm
    obtain ⟨v, hv, rfl⟩ := Link.rcv_of_exec (op := Rcv.frameArrived d) (fun _ => rfl) hm
    exact h.frameAltered hd hv
  | ackCopy j =>
    simp only [Link.move, h.receiver.acks, List.getElem?_map] at hm
    cases hd : counts[j]? with
    | none => simp [hd] at hm
    | some d =>
      simp only [hd, Option.map_some, Option.ite_none_right_eq_some] at hm
      obtain ⟨hj, hm⟩ := hm
      obtain ⟨v, hv, rfl⟩ := Link.snd_of_exec (op := Snd.ackArrived _) (fun _ => rfl) hm
      exact h.ackCopy hj hd hv
  | ackAltered d =>
    simp only [Link.move, Option.ite_none_right_eq_some] at hm
    obtain ⟨hd, hm⟩ := hm
    obtain ⟨v, hv, rfl⟩ := Link.snd_of_exec (op := Snd.ackArrived d) (fun _ => rfl) hm
    obtain ⟨hw, ⟨hmatch, -⟩ | ⟨-, hr⟩⟩ := Snd.ackArrived_eq_next.mp hv
    · exact absurd hmatch hd
    · exact h.retry hw hr (Nat.le_refl _)
  | sndTimeout =>
    obtain ⟨v, hv, rfl⟩ := Link.snd_of_exec (op := Snd.timedOut) (fun _ => rfl) hm
    obtain ⟨hw, hr⟩ := Snd.timedOut_eq_next.mp hv
    exact h.retry hw hr (Nat.le_refl _)
  | sndClosed =>
    obtain ⟨v, hv, rfl⟩ := Link.snd_of_exec (op := Snd.closed) (fun _ => rfl) hm
    obtain ⟨hs, rfl⟩ := Snd.closed_eq_next.mp hv
    exact h.raise hs (.inl rfl)
  | sndCancel =>
    obtain ⟨v, hv, rfl⟩ := Link.snd_of_exec (op := Snd.cancel) (fun _ => rfl) hm
    obtain ⟨hs, rfl⟩ := Snd.cancel_eq_next.mp hv
    exact h.raise hs (.inr rfl)
  | rcvTimeout =>
    obtain ⟨v, hv, rfl⟩ := Link.rcv_of_exec (op := Rcv.timedOut) (fun _ => rfl) hm
    refine ⟨_, _, _, h.quiet (.of_timedOut hv) ?_⟩
    obtain ⟨-, ⟨-, rfl⟩ | ⟨-, -, rfl⟩ | ⟨-, -, rfl⟩⟩ := Rcv.timedOut_eq_next.mp hv <;> rfl
  | rcvClosed =>
    obtain ⟨v, hv, rfl⟩ := Link.rcv_of_exec (op := Rcv.closed) (fun _ => rfl) hm
    refine ⟨_, _, _, h.quiet (.of_closed hv) ?_⟩
    obtain ⟨-, rfl⟩ := Rcv.closed_eq_next.mp hv
    rfl
  | rcvStop =>
    obtain ⟨v, hv, rfl⟩ := Link.rcv_of_exec (op := Rcv.stop) (fun _ => rfl) hm
    refine ⟨_, _, _, h.quiet (.of_stop hv) ?_⟩
    obtain ⟨-, rfl⟩ := Rcv.stop_eq_next.mp hv
    rfl

theorem Link.Ordered.run {cs : List Bytes} {ms : List LinkMove} {l l' : Link} (h : l.Ordered cs)
    (hrun : Link.run ms l = some l') : l'.Ordered cs := by
  induction ms generalizing l with
  | nil =>
    cases hrun
    exact h
  | cons m ms ih =>
    rw [Link.run] at hrun
    split at hrun
    · rename_i r hr
      exact ih (h.move hr) hrun
    · cases hrun

/-- Both ends reset with parameters that agree are in order, with nothing in the channel (R271). -/
theorem Link.ordered_start {p q : Params} (hp : paramsLegal p = true) (hq : paramsLegal q = true) (hpq : paramsAgree p q)
    (data : Bytes) : (Link.start p q data).Ordered (chunks p.maxPayload data) := by
  obtain ⟨hmax, hmod, hstart⟩ := hpq
  obtain ⟨hm, -⟩ := paramsLegal_iff.mp hp
  obtain ⟨hload, -, -⟩ := Cfg.toNat_load hp
  refine ⟨0, [], [], ?_⟩
  exact
    { sender := ⟨Snd.inv_reset hp, rfl, .nil, nofun, Nat.zero_le _, fun _ => rfl, nofun⟩
      receiver := ⟨Rcv.inv_reset hq, List.nil_prefix, rfl, .nil, nofun⟩
      maxPayload := congrArg (BitVec.ofNat 16) hmax, seqMod := congrArg (BitVec.ofNat 9) hmod
      startSeq := congrArg (BitVec.ofNat 8) hstart
      fits := fun c hc => (length_le_of_mem_chunks hm hc).trans_eq hload.symm
      todo := rfl, presented := Nat.zero_le _, confirmed_le := Nat.le_refl 0, delivered_le := Nat.le_refl 0
      frameCursor := nofun, ackCursor := nofun }

/-- Settles O58: the link stays in order, so the first chunks were delivered, and all of them when the last one is confirmed. -/
theorem inOrderChannelDeliversAPrefix : Obligations.InOrderChannelDeliversAPrefix := by
  intro p q data ms l hp hq hpq hrun
  obtain ⟨n, sent, counts, h⟩ := (Link.ordered_start hp hq hpq data).run hrun
  obtain ⟨hm, -⟩ := paramsLegal_iff.mp hp
  obtain ⟨-, -, hflat⟩ := chunksSplitInOrder p.maxPayload data hm
  have htake := List.prefix_iff_eq_take.mp h.receiver.delivered
  refine ⟨⟨_, htake, congrArg List.flatten htake⟩, fun htodo hi => ?_⟩
  have hn := h.sender.idle hi
  have hall := List.drop_eq_nil_iff.mp (h.todo.symm.trans htodo)
  rw [Rcv.sink, htake, List.take_of_length_le (by have := h.confirmed_le; omega), hflat]

end Sys2Proof.Machine
end

section
/-! A fair transport adapter (R287) ends every wait of the sender and every silent run of a receiver with an idle limit. Each
answer uses up one of a bounded number, and fairness brings the next one. -/

namespace Sys2Proof.Machine

/-! ## One moment of an execution -/

/-- What a served request does to unit SND: nothing, one of its moves, or its reset. -/
theorem attempt_snd {r : Request} {s t : State} (h : attempt r s = .next t) :
    t.snd = s.snd ∨ s.snd.Move t.snd ∨ ∃ p, r = .reset (.snd p) ∧ t.snd = Snd.reset p := by
  rcases attempt_eq_next h with ⟨i, -, hx⟩ | ⟨-, rfl⟩ | ⟨q, rfl, hq⟩
  · exact (exec_snd hx).imp_right .inl
  · exact .inl rfl
  · rcases resetUnit_eq_next.mp hq with ⟨p, rfl, -, rfl⟩ | ⟨p, -, -, rfl⟩ | ⟨u, -, rfl⟩
    · exact .inr (.inr ⟨p, rfl, rfl⟩)
    · exact .inl rfl
    · exact .inl (State.putCk_snd _ _ _)

/-- What a served request does to unit RCV: nothing, what an operation does, or its reset. -/
theorem attempt_rcv {r : Request} {s t : State} (h : attempt r s = .next t) :
    t.rcv = s.rcv ∨ (∃ i, present r = .instr i ∧ exec i s = .next t) ∨ ∃ p, r = .reset (.rcv p) := by
  rcases attempt_eq_next h with hx | ⟨-, rfl⟩ | ⟨q, rfl, hq⟩
  · exact .inr (.inl hx)
  · exact .inl rfl
  · rcases resetUnit_eq_next.mp hq with ⟨p, -, -, rfl⟩ | ⟨p, rfl, -, rfl⟩ | ⟨u, -, rfl⟩
    · exact .inl rfl
    · exact .inr (.inr ⟨p, rfl⟩)
    · exact .inl (State.putCk_rcv _ _ _)

/-- A moment of a valid execution: nothing happens, or a request is served. -/
theorem Execution.valid_cases {e : Execution} (h : e.valid) (n : Nat) :
    (e.event n = none ∧ e.state (n + 1) = e.state n)
    ∨ ∃ r, e.event n = some r ∧ attempt r (e.state n) = .next (e.state (n + 1)) := by
  have := h n
  cases hr : e.event n with
  | none => exact .inl ⟨rfl, by simpa [hr] using this⟩
  | some r => exact .inr ⟨r, rfl, by simpa [hr] using this⟩

/-! ## A wait of the sender -/

/-- The ways a wait of the unit `u` may end at moment `m`: confirmed, failed, or reset. -/
def Execution.waitEnds (e : Execution) (u : Snd) (m : Nat) : Prop :=
  ((e.state (m + 1)).snd.state = .idle ∧ (e.state (m + 1)).snd.confirmations = u.confirmations + 1)
  ∨ ((e.state (m + 1)).snd.state = .failed ∧ (e.state (m + 1)).snd.confirmations = u.confirmations
    ∧ ((e.state (m + 1)).snd.err = .deliveryFailed ∨ (e.state (m + 1)).snd.err = .channelClosed
      ∨ (e.state (m + 1)).snd.err = .cancelled))
  ∨ ∃ p, e.event m = some (.reset (.snd p)) ∧ (e.state (m + 1)).snd = Snd.reset p

/-- The unit `v` is still in the wait the unit `u` was in, with as many retries or more. -/
structure Snd.StillWaiting (u v : Snd) : Prop where
  wait : v.state = .wait
  cfg : v.cfg = u.cfg
  confirmations : v.confirmations = u.confirmations
  retries : u.retryCount ≤ v.retryCount

theorem Snd.StillWaiting.refl {u : Snd} (h : u.state = .wait) : u.StillWaiting u := ⟨h, rfl, rfl, Nat.le_refl _⟩

theorem Snd.StillWaiting.trans {u v w : Snd} (h : u.StillWaiting v) (h' : v.StillWaiting w) : u.StillWaiting w :=
  ⟨h'.wait, h'.cfg.trans h.cfg, h'.confirmations.trans h.confirmations, h.retries.trans h'.retries⟩

/-- A move out of WAIT retransmits, with a retry counted within the bound, confirms, or fails (R161). -/
theorem Snd.Move.cases_of_wait {u v : Snd} (hv : u.Move v) (hw : u.state = .wait) :
    (u.StillWaiting v ∧ u.retryCount < v.retryCount ∧ v.retryCount ≤ u.cfg.maxRetry)
    ∨ (v.state = .idle ∧ v.confirmations = u.confirmations + 1)
    ∨ (v.state = .failed ∧ v.confirmations = u.confirmations
      ∧ (v.err = .deliveryFailed ∨ v.err = .channelClosed ∨ v.err = .cancelled)) := by
  cases hv with
  | loadError hs | load c hs hc => exact nomatch hw.symm.trans hs
  | confirm => exact .inr (.inl ⟨rfl, Snd.confirmations_of_confirmed rfl⟩)
  | retransmit f labels hs hmax hf =>
    exact .inl ⟨⟨hw, rfl, Snd.confirmations_of_tx rfl, Nat.le_succ _⟩, Nat.lt_succ_self _, hmax⟩
  | exhaust => exact .inr (.inr ⟨rfl, rfl, .inl rfl⟩)
  | raise e hs he => exact .inr (.inr ⟨rfl, rfl, .inr he⟩)

/-- One moment of a wait: it goes on, or it ends. -/
theorem Execution.wait_moment {e : Execution} (h : e.valid) {m : Nat} (hw : (e.state m).snd.state = .wait) :
    (e.state m).snd.StillWaiting (e.state (m + 1)).snd ∨ e.waitEnds (e.state m).snd m := by
  rcases e.valid_cases h m with ⟨-, hs⟩ | ⟨r, hr, hx⟩
  · exact .inl (hs.symm ▸ .refl hw)
  · rcases attempt_snd hx with hs | hv | ⟨p, rfl, hp⟩
    · exact .inl (hs.symm ▸ .refl hw)
    · exact (hv.cases_of_wait hw).imp And.left (.imp_right .inl)
    · exact .inr (.inr (.inr ⟨p, hr, hp⟩))

/-- What the Transport hands over to a sender that waits is one of its moves (R236). -/
theorem attempt_received_sender {x : RecvResult} {s t : State} (h : attempt (.received .sender x) s = .next t) :
    s.snd.Move t.snd := by
  cases x with
  | bytes d =>
    change exec (decodeAckLink d) s = .next t at h
    rw [exec_decodeAckLink] at h
    exact Answer.exec_move (a := .datagram d) h
  | timeout => exact Answer.exec_move (a := .timeout) h
  | closed => exact Answer.exec_move (a := .closed) h

/-- At the moment of an answer a wait ends, or one of the retries left is used up. -/
theorem Execution.wait_answer {e : Execution} (h : e.valid) {m : Nat} {x : RecvResult} (hw : (e.state m).snd.state = .wait)
    (hx : e.event m = some (.received .sender x)) :
    ((e.state m).snd.StillWaiting (e.state (m + 1)).snd ∧ (e.state m).snd.retryCount < (e.state (m + 1)).snd.retryCount
      ∧ (e.state (m + 1)).snd.retryCount ≤ (e.state m).snd.cfg.maxRetry)
    ∨ e.waitEnds (e.state m).snd m := by
  rcases e.valid_cases h m with ⟨hnone, -⟩ | ⟨r, hr, hr'⟩
  · exact nomatch hnone.symm.trans hx
  · obtain rfl := Option.some.inj (hr.symm.trans hx)
    exact ((attempt_received_sender hr').cases_of_wait hw).imp_right (.imp_right .inl)

/-- The wait of unit SND at moment `n` ends at moment `m`, after which it is first out of it. -/
def Execution.leavesWait (e : Execution) (n m : Nat) : Prop :=
  n ≤ m ∧ (∀ k, n ≤ k → k ≤ m → (e.state k).snd.state = .wait) ∧ e.waitEnds (e.state n).snd m

/-- From `n` to `k` the unit is in one wait. -/
def Execution.waitsThrough (e : Execution) (n k : Nat) : Prop :=
  ∀ j, n ≤ j → j ≤ k → (e.state n).snd.StillWaiting (e.state j).snd

theorem Execution.waitEnds_of_stillWaiting {e : Execution} {u v : Snd} {m : Nat} (h : u.StillWaiting v)
    (hm : e.waitEnds v m) : e.waitEnds u m := by
  unfold Execution.waitEnds at hm ⊢
  rwa [← h.confirmations]

theorem Execution.waitsThrough_succ {e : Execution} {n k : Nat} (h : e.waitsThrough n k) (hnk : n ≤ k)
    (hmore : (e.state k).snd.StillWaiting (e.state (k + 1)).snd) : e.waitsThrough n (k + 1) := by
  intro j hj hj'
  rcases Nat.lt_or_eq_of_le hj' with hlt | rfl
  · exact h j hj (Nat.le_of_lt_succ hlt)
  · exact (h k hnk (Nat.le_refl k)).trans hmore

/-- A wait that has lasted up to the moment at which it ends. -/
theorem Execution.leavesWait_of_waitEnds {e : Execution} {n m : Nat} (h : e.waitsThrough n m) (hnm : n ≤ m)
    (hend : e.waitEnds (e.state m).snd m) : e.leavesWait n m :=
  ⟨hnm, fun k hk hk' => (h k hk hk').wait, Execution.waitEnds_of_stillWaiting (h m hnm (Nat.le_refl m)) hend⟩

/-- Up to any moment the wait lasts, or it has ended before. -/
theorem Execution.waits_or_leaves {e : Execution} (h : e.valid) {n : Nat} (hw : (e.state n).snd.state = .wait) (d : Nat) :
    e.waitsThrough n (n + d) ∨ ∃ m, e.leavesWait n m := by
  induction d with
  | zero =>
    refine .inl fun j hj hj' => ?_
    obtain rfl : j = n := Nat.le_antisymm hj' hj
    exact .refl hw
  | succ d ih =>
    rcases ih with hwait | hleft
    · have hlast := hwait (n + d) (Nat.le_add_right _ _) (Nat.le_refl _)
      rcases e.wait_moment h hlast.wait with hmore | hend
      · exact .inl (Execution.waitsThrough_succ hwait (Nat.le_add_right n d) hmore)
      · exact .inr ⟨n + d, Execution.leavesWait_of_waitEnds hwait (Nat.le_add_right n d) hend⟩
    · exact .inr hleft

/-- A later moment of the same wait ends it too. -/
theorem Execution.leavesWait_of_waitsThrough {e : Execution} {n k m : Nat} (hnk : n ≤ k) (h : e.waitsThrough n k)
    (hm : e.leavesWait k m) : e.leavesWait n m := by
  obtain ⟨hkm, hwait, hend⟩ := hm
  refine ⟨hnk.trans hkm, fun j hj hj' => ?_, Execution.waitEnds_of_stillWaiting (h k hnk (Nat.le_refl _)) hend⟩
  rcases Nat.le_total j k with hjk | hkj
  · exact (h j hj hjk).wait
  · exact hwait j hkj hj'

/-- Every wait ends: fairness brings an answer, and each answer that does not end the wait leaves fewer retries (R172). -/
theorem Execution.exists_leavesWait {e : Execution} (h : e.valid) (hfair : e.fair .sender) {n : Nat}
    (hw : (e.state n).snd.state = .wait) : ∃ m, e.leavesWait n m := by
  induction hleft : (e.state n).snd.cfg.maxRetry - (e.state n).snd.retryCount using Nat.strong_induction_on generalizing n with
  | _ left ih =>
    obtain ⟨m, hnm, hanswer⟩ := hfair n hw
    obtain ⟨d, rfl⟩ := Nat.exists_eq_add_of_le hnm
    rcases e.waits_or_leaves h hw d with hwait | hleft'
    · have hlast := hwait (n + d) hnm (Nat.le_refl _)
      rcases hanswer with ⟨x, hx⟩ | hout
      · rcases e.wait_answer h hlast.wait hx with ⟨hmore, hlt, hmax⟩ | hend
        · have hretries := hlast.retries
          rw [hlast.cfg] at hmax
          obtain ⟨m, hm⟩ := ih _ (by rw [hmore.cfg, hlast.cfg]; omega) hmore.wait rfl
          have hwait' := Execution.waitsThrough_succ hwait hnm hmore
          exact ⟨m, Execution.leavesWait_of_waitsThrough (Nat.le_succ_of_le hnm) hwait' hm⟩
        · exact ⟨n + d, Execution.leavesWait_of_waitEnds hwait hnm hend⟩
      · exact absurd hlast.wait hout
    · exact hleft'

/-! ## The answers a SEND can be given -/

/-- A wait takes at most MAX_RETRY + 1 answers, and what follows its confirmation fewer than `n` (R172). -/
theorem length_lt_of_awaitThen_waiting {k : State → List Answer → SendEnd} {M n : Nat} {t : State}
    (hk : ∀ s as, s.snd.state = .idle → s.snd.cfg.maxRetry = M → k s as = .waiting t → as.length < n) {as : List Answer}
    {s : State} (hw : s.snd.state = .wait) (hM : s.snd.cfg.maxRetry = M) (hmax : s.snd.retryCount ≤ M)
    (h : awaitThen k as s = .waiting t) : as.length < M + 1 - s.snd.retryCount + n := by
  induction as generalizing s with
  | nil =>
    rw [List.length_nil]
    omega
  | cons a as ih =>
    cases hr : exec a.instr s with
    | fault f | refused f => simp [awaitThen, hw, hr] at h
    | next r =>
      rw [awaitThen_wait_cons hw hr] at h
      have hmove := Answer.exec_move hr
      have hM' : r.snd.cfg.maxRetry = M := hmove.cfg_eq ▸ hM
      rw [List.length_cons]
      rcases hmove.cases_of_wait hw with ⟨hmore, hlt, hle⟩ | ⟨hst, -⟩ | ⟨hst, -⟩
      · have := ih hmore.wait hM' (hM ▸ hle) h
        omega
      · rw [awaitThen_idle hst] at h
        have := hk r as hst hM' h
        omega
      · rw [awaitThen_failed hst] at h
        cases h

/-- Each chunk takes at most MAX_RETRY + 1 answers. -/
theorem length_lt_of_sendChunks_waiting {M : Nat} {t : State} {cs : List Bytes} {s : State} {as : List Answer}
    (hM : s.snd.cfg.maxRetry = M) (h : sendChunks cs s as = .waiting t) : as.length < cs.length * (M + 1) := by
  induction cs generalizing s as with
  | nil => cases h
  | cons c cs ih =>
    rw [sendChunks] at h
    split at h
    · rename_i r hr
      obtain ⟨v, hv, rfl⟩ := State.onSnd_eq_next.mp hr
      obtain ⟨hi, ⟨-, rfl⟩ | ⟨-, rfl⟩⟩ := Snd.load_eq_next.mp hv
      · simp [hi] at h
      · have := length_lt_of_awaitThen_waiting (n := cs.length * (M + 1)) (s := s.loaded c) (fun _ _ _ hM h => ih hM h) rfl hM
          (Nat.zero_le M) h
        rw [List.length_cons, Nat.succ_mul, Nat.add_comm]
        exact this
    · cases h
    · cases h

/-- Settles O59: fairness brings the answers, and a wait, so a SEND too, can take only so many of them. -/
theorem fairTransportEndsEveryWait : Obligations.FairTransportEndsEveryWait :=
  ⟨fun _ _ hvalid hfair hw => Execution.exists_leavesWait hvalid hfair hw,
    fun _ _ _ _ _ _ h => length_lt_of_sendChunks_waiting rfl h⟩

/-! ## A silent run of the receiver -/

/-- The run is over at moment `m`: in DONE, in FAILED by a closed channel, or by a reset of the unit. -/
def Execution.runEnds (e : Execution) (m : Nat) : Prop :=
  ((e.state m).rcv.state = .done ∧ (e.state m).rcv.err = .noError)
  ∨ ((e.state m).rcv.state = .failed ∧ (e.state m).rcv.err = .channelClosed)
  ∨ ∃ p, e.event m = some (.reset (.rcv p))

/-- The unit `v` is in RUN still, in the run the unit `u` was in, with as many timeouts in a row or more. -/
structure Rcv.StillRunning (u v : Rcv) : Prop where
  run : v.state = .run
  inv : v.Inv
  cfg : v.cfg = u.cfg
  idle : u.idleCount ≤ v.idleCount

theorem Rcv.StillRunning.refl {u : Rcv} (h : u.state = .run) (hu : u.Inv) : u.StillRunning u := ⟨h, hu, rfl, Nat.le_refl _⟩

theorem Rcv.StillRunning.trans {u v w : Rcv} (h : u.StillRunning v) (h' : v.StillRunning w) : u.StillRunning w :=
  ⟨h'.run, h'.inv, h'.cfg.trans h.cfg, h.idle.trans h'.idle⟩

/-- Outside RUN the run has ended well (R31, R35). -/
theorem Rcv.Inv.ended_of_ne_run {u : Rcv} (h : u.Inv) (hr : u.state ≠ .run) :
    (u.state = .done ∧ u.err = .noError) ∨ (u.state = .failed ∧ u.err = .channelClosed) := by
  cases hs : u.state with
  | run => exact absurd hs hr
  | done => exact .inl ⟨rfl, h.done hs⟩
  | failed => exact .inr ⟨rfl, h.failed hs⟩

/-- R.TIMEOUT with an idle limit counts, and may end the run (R198). -/
theorem Rcv.timedOut_counts {u v : Rcv} (h : u.Inv) (hpos : 0 < u.cfg.idleLimit) (hv : u.timedOut = .next v) :
    v.Inv ∧ (v.state ≠ .run ∨ (u.StillRunning v ∧ v.idleCount = u.idleCount + 1 ∧ v.idleCount < u.cfg.idleLimit)) := by
  have hinv := h.of_move (.of_timedOut hv)
  refine ⟨hinv, ?_⟩
  obtain ⟨hr, ⟨h0, -⟩ | ⟨-, -, rfl⟩ | ⟨-, hne, rfl⟩⟩ := Rcv.timedOut_eq_next.mp hv
  · omega
  · exact .inl nofun
  · refine .inr ⟨⟨hr, hinv, rfl, Nat.le_succ _⟩, rfl, ?_⟩
    obtain ⟨-, hcount⟩ := h.run hr
    simp only
    omega

/-- The instruction brings no datagram to the receiver. -/
def bringsNoDatagram (i : Instr) : Prop := (∀ d, i ≠ .rFrame d) ∧ ∀ c q p, i ≠ .frame c q p

/-- What an operation without a datagram does to a receiver in RUN: its run goes on or is over. -/
theorem exec_rcv_of_bringsNoDatagram {i : Instr} {s t : State} (hi : bringsNoDatagram i) (hs : s.rcv.Inv)
    (hr : s.rcv.state = .run) (hpos : 0 < s.rcv.cfg.idleLimit) (h : exec i s = .next t) :
    t.rcv.Inv ∧ (t.rcv.state ≠ .run ∨ s.rcv.StillRunning t.rcv) := by
  obtain ⟨hframe, hwire⟩ := hi
  cases i with
  | rFrame d => exact absurd rfl (hframe d)
  | frame c q p => exact absurd rfl (hwire c q p)
  | rTimeout =>
    obtain ⟨v, hv, rfl⟩ := State.onRcv_eq_next.mp h
    exact (Rcv.timedOut_counts hs hpos hv).imp_right (.imp_right And.left)
  | rClosed =>
    obtain ⟨v, hv, rfl⟩ := State.onRcv_eq_next.mp h
    refine ⟨hs.of_move (.of_closed hv), .inl ?_⟩
    obtain ⟨-, rfl⟩ := Rcv.closed_eq_next.mp hv
    exact nofun
  | rStop =>
    obtain ⟨v, hv, rfl⟩ := State.onRcv_eq_next.mp h
    refine ⟨hs.of_move (.of_stop hv), .inl ?_⟩
    obtain ⟨-, rfl⟩ := Rcv.stop_eq_next.mp hv
    exact nofun
  | _ =>
    have hrcv : t.rcv = s.rcv := exec_rcv_of_ne h (by simp [unitOf])
    rw [hrcv]
    exact ⟨hs, .inr (.refl hr hs)⟩

theorem Execution.runEnds_of_ne_run {e : Execution} {m : Nat} (h : (e.state m).rcv.Inv) (hr : (e.state m).rcv.state ≠ .run) :
    e.runEnds m :=
  (h.ended_of_ne_run hr).imp_right .inl

section
variable {e : Execution} {n m : Nat}

/-- One moment of a silent run: it goes on, or it is over. -/
theorem Execution.run_moment (h : e.valid) (hsilent : e.silentFrom n) (hnm : n ≤ m) (hs : (e.state m).rcv.Inv)
    (hr : (e.state m).rcv.state = .run) (hpos : 0 < (e.state m).rcv.cfg.idleLimit) :
    (e.state m).rcv.StillRunning (e.state (m + 1)).rcv ∨ e.runEnds m ∨ e.runEnds (m + 1) := by
  rcases e.valid_cases h m with ⟨-, hst⟩ | ⟨r, hevent, hx⟩
  · exact .inl (hst.symm ▸ .refl hr hs)
  · rcases attempt_rcv hx with hst | ⟨i, hi, hexec⟩ | ⟨p, rfl⟩
    · exact .inl (hst.symm ▸ .refl hr hs)
    · obtain ⟨hno, hno'⟩ := hsilent m r hnm hevent
      have hq : bringsNoDatagram i := ⟨fun d hd => hno d (hd ▸ hi), fun c q p hd => hno' c q p (hd ▸ hi)⟩
      obtain ⟨hinv, hend | hmore⟩ := exec_rcv_of_bringsNoDatagram hq hs hr hpos hexec
      · exact .inr (.inr (Execution.runEnds_of_ne_run hinv hend))
      · exact .inl hmore
    · exact .inr (.inl (.inr (.inr ⟨p, hevent⟩)))

/-- The result of a `receive` at the receiver is a datagram, R.TIMEOUT or R.CLOSED (R237). -/
theorem present_received_receiver (x : RecvResult) :
    (∃ d, present (.received .receiver x) = .instr (.rFrame d))
    ∨ (∃ c q p, present (.received .receiver x) = .instr (.frame c q p))
    ∨ x = .timeout ∨ x = .closed := by
  cases x with
  | bytes d =>
    have hlink : (∃ d', decodeFrameLink d = .rFrame d') ∨ ∃ c q p, decodeFrameLink d = .frame c q p := by
      unfold decodeFrameLink
      split
      · split
        · exact .inr ⟨_, _, _, rfl⟩
        · exact .inl ⟨_, rfl⟩
      · exact .inl ⟨_, rfl⟩
    rcases hlink with ⟨d', hd⟩ | ⟨c, q, p, hd⟩
    · exact .inl ⟨d', congrArg Presented.instr hd⟩
    · exact .inr (.inl ⟨c, q, p, congrArg Presented.instr hd⟩)
  | timeout => exact .inr (.inr (.inl rfl))
  | closed => exact .inr (.inr (.inr rfl))

/-- At the moment of an answer a silent run is over, or one more timeout is counted. -/
theorem Execution.run_answer {x : RecvResult} (h : e.valid) (hsilent : e.silentFrom n) (hnm : n ≤ m)
    (hs : (e.state m).rcv.Inv) (hpos : 0 < (e.state m).rcv.cfg.idleLimit) (hx : e.event m = some (.received .receiver x)) :
    ((e.state m).rcv.StillRunning (e.state (m + 1)).rcv ∧ (e.state m).rcv.idleCount < (e.state (m + 1)).rcv.idleCount
      ∧ (e.state (m + 1)).rcv.idleCount < (e.state m).rcv.cfg.idleLimit)
    ∨ e.runEnds (m + 1) := by
  rcases e.valid_cases h m with ⟨hnone, -⟩ | ⟨r, hevent, hr⟩
  · exact nomatch hnone.symm.trans hx
  · obtain rfl := Option.some.inj (hevent.symm.trans hx)
    obtain ⟨hno, hno'⟩ := hsilent m _ hnm hx
    rcases present_received_receiver x with ⟨d, hd⟩ | ⟨c, q, p, hd⟩ | rfl | rfl
    · exact absurd hd (hno d)
    · exact absurd hd (hno' c q p)
    · obtain ⟨v, hv, hst⟩ := State.onRcv_eq_next.mp hr
      obtain ⟨hinv, hcases⟩ := Rcv.timedOut_counts hs hpos hv
      have hrcv : (e.state (m + 1)).rcv = v := congrArg State.rcv hst
      rw [hrcv]
      rcases hcases with hend | ⟨hmore, hcount, hlt⟩
      · exact .inr (Execution.runEnds_of_ne_run (hrcv ▸ hinv) (hrcv ▸ hend))
      · exact .inl ⟨hmore, hcount ▸ Nat.lt_succ_self _, hlt⟩
    · obtain ⟨v, hv, hst⟩ := State.onRcv_eq_next.mp hr
      obtain ⟨-, rfl⟩ := Rcv.closed_eq_next.mp hv
      have hrcv : (e.state (m + 1)).rcv = (e.state m).rcv.raise .channelClosed := congrArg State.rcv hst
      exact .inr (.inr (.inl ⟨by rw [hrcv, Rcv.raise_state], by rw [hrcv, Rcv.raise_err]⟩))

/-- Up to any moment a silent run lasts, or it is over by then. -/
theorem Execution.runs_or_ends (h : e.valid) (hsilent : e.silentFrom n) (hnm : n ≤ m) (hs : (e.state m).rcv.Inv)
    (hr : (e.state m).rcv.state = .run) (hpos : 0 < (e.state m).rcv.cfg.idleLimit) (d : Nat) :
    (e.state m).rcv.StillRunning (e.state (m + d)).rcv ∨ ∃ k, m ≤ k ∧ e.runEnds k := by
  induction d with
  | zero => exact .inl (.refl hr hs)
  | succ d ih =>
    rcases ih with hrun | hend
    · have hmoment := Execution.run_moment h hsilent (Nat.le_add_right_of_le hnm) hrun.inv hrun.run (hrun.cfg ▸ hpos)
      rcases hmoment with hmore | hend | hend
      · exact .inl (hrun.trans hmore)
      · exact .inr ⟨m + d, Nat.le_add_right m d, hend⟩
      · exact .inr ⟨m + d + 1, Nat.le_add_right m (d + 1), hend⟩
    · exact .inr hend

/-- Every silent run ends: fairness brings an answer, and each one that does not end the run leaves fewer timeouts (R198). -/
theorem Execution.exists_runEnds (h : e.valid) (hfair : e.fair .receiver) (hsilent : e.silentFrom n) (hnm : n ≤ m)
    (hs : (e.state m).rcv.Inv) (hpos : 0 < (e.state m).rcv.cfg.idleLimit) : ∃ k, m ≤ k ∧ e.runEnds k := by
  induction hleft : (e.state m).rcv.cfg.idleLimit - (e.state m).rcv.idleCount using Nat.strong_induction_on generalizing m with
  | _ left ih =>
    by_cases hr : (e.state m).rcv.state = .run
    · obtain ⟨k, hmk, hanswer⟩ := hfair m hr
      obtain ⟨d, rfl⟩ := Nat.exists_eq_add_of_le hmk
      rcases Execution.runs_or_ends h hsilent hnm hs hr hpos d with hrun | hend
      · rcases hanswer with ⟨x, hx⟩ | hout
        · have hcounted := Execution.run_answer h hsilent (hnm.trans hmk) hrun.inv (hrun.cfg ▸ hpos) hx
          rcases hcounted with ⟨hmore, hlt, hlimit⟩ | hend
          · have hidle := hrun.idle
            have hcfg := hmore.cfg.trans hrun.cfg
            rw [hrun.cfg] at hlimit
            have hless : (e.state (m + d + 1)).rcv.cfg.idleLimit - (e.state (m + d + 1)).rcv.idleCount < left := by
              rw [hcfg]
              omega
            obtain ⟨k, hk, hend⟩ := ih _ hless (Nat.le_succ_of_le (hnm.trans hmk)) hmore.inv (hcfg ▸ hpos) rfl
            exact ⟨k, hmk.trans (Nat.le_of_succ_le hk), hend⟩
          · exact ⟨_, Nat.le_succ_of_le hmk, hend⟩
        · exact absurd hrun.run hout
      · exact hend
    · exact ⟨m, Nat.le_refl m, Execution.runEnds_of_ne_run hs hr⟩

end

/-! ## The timeouts a RUN can be given -/

/-- A RUN that is still in RUN after `k` timeouts has counted them all below the limit. -/
theorem lt_idleLimit_of_runReceiver_timeouts {k : Nat} {s t : State} (hs : s.rcv.Inv) (hpos : 0 < s.rcv.cfg.idleLimit)
    (h : runReceiver (List.replicate k .timeout) s = .running t) : s.rcv.idleCount + k < s.rcv.cfg.idleLimit := by
  have hr := run_of_runReceiver_running h
  induction k generalizing s with
  | zero =>
    obtain ⟨-, hcount⟩ := hs.run hr
    omega
  | succ k ih =>
    obtain ⟨r, hx⟩ := exec_rcv_exists_next (unitOf_rcvInput .timeout) hr
    rw [List.replicate_succ, runReceiver_run_cons hr hx] at h
    have hrun := run_of_runReceiver_running h
    obtain ⟨v, hv, rfl⟩ := State.onRcv_eq_next.mp hx
    obtain ⟨hinv, hend | ⟨hmore, hcount, -⟩⟩ := Rcv.timedOut_counts hs hpos hv
    · exact absurd hrun hend
    · have := ih (s := { s with rcv := v }) hinv (hmore.cfg ▸ hpos) h hrun
      rw [hmore.cfg, hcount] at this
      omega

/-- Any inputs before the timeouts leave the limit and the invariant as they are. -/
theorem lt_idleLimit_of_runReceiver {k : Nat} {ins : List RcvInput} {s t : State} (hs : s.rcv.Inv)
    (hpos : 0 < s.rcv.cfg.idleLimit) (h : runReceiver (ins ++ List.replicate k .timeout) s = .running t) :
    k < s.rcv.cfg.idleLimit := by
  induction ins generalizing s with
  | nil =>
    have := lt_idleLimit_of_runReceiver_timeouts hs hpos h
    omega
  | cons a ins ih =>
    have hr := run_of_runReceiver_running h
    obtain ⟨r, hx⟩ := exec_rcv_exists_next (unitOf_rcvInput a) hr
    rw [List.cons_append, runReceiver_run_cons hr hx] at h
    have hreach := (Rcv.ReachedFrom.refl hs).exec hx
    have := ih hreach.inv (hreach.cfg ▸ hpos) h
    rwa [hreach.cfg] at this

/-- Settles O60: fairness brings the answers, and a silent run, so a RUN too, can take only so many of them. -/
theorem fairTransportEndsASilentRun : Obligations.FairTransportEndsASilentRun :=
  ⟨fun _ n hvalid hfair hsilent hs hpos => Execution.exists_runEnds hvalid hfair hsilent (Nat.le_refl n) hs hpos,
    fun _ _ _ _ hs hpos h => lt_idleLimit_of_runReceiver hs hpos h⟩

end Sys2Proof.Machine
end
